-- ==== Sys2Proof/Word.lean ====
section
/-! DEFINITION. The widths of the EEPROM programming block (00_scope.md R9, R11). -/

namespace Sys2Proof

/-- `REG_WIDTH`: a logical register, a request or a command word (R9). -/
abbrev Word := BitVec 32

/-- `HALF_WIDTH`: one device-port access (R9, R50). -/
abbrev Half := BitVec 16

/-- A cell, a byte of the address, a byte of the window view. -/
abbrev Byte := BitVec 8

/-- A byte offset into the 4 KiB register window (R50). -/
abbrev Offset := BitVec 12

/-- A CELL index (R28). -/
abbrev CellIx := BitVec 5

end Sys2Proof
end

