-- ==== Sys2Proof/Config.lean ====
section
/-! DEFINITION. What an EPB is built with (00_scope.md R10) and the free values of the model. -/

namespace Sys2Proof

/-- The parameters the spec leaves OPEN (R10, D2, D3): the window's base, which the EPB never uses,
and the offsets of the four device registers. -/
structure Params where
  windowBase : Nat
  e2pCmd     : Offset
  e2pData    : Offset
  macCsrCmd  : Offset
  macCsrData : Offset
deriving DecidableEq, Repr, Inhabited

/-- R10: "even, at most 0xFFC". -/
def Params.offsetOk (o : Offset) : Bool := o.toNat % 2 == 0 && o.toNat ≤ 0xFFC

/-- The 4-byte ranges [o, o+3] and [p, p+3] do not overlap (R10). -/
def Params.apart (o p : Offset) : Bool := o.toNat + 3 < p.toNat || p.toNat + 3 < o.toNat

/-- R10: each offset even and at most 0xFFC, and the four ranges pairwise non-overlapping. -/
def Params.valid (p : Params) : Bool :=
  Params.offsetOk p.e2pCmd && Params.offsetOk p.e2pData &&
  Params.offsetOk p.macCsrCmd && Params.offsetOk p.macCsrData &&
  Params.apart p.e2pCmd p.e2pData && Params.apart p.e2pCmd p.macCsrCmd &&
  Params.apart p.e2pCmd p.macCsrData && Params.apart p.e2pData p.macCsrCmd &&
  Params.apart p.e2pData p.macCsrData && Params.apart p.macCsrCmd p.macCsrData

namespace Config

/-- FREE. The parameters of the EPB at hand, before R10's constraint (log entry 2). -/
opaque rawParams : Params

/-- DESIGN CHOICE, log entry 2: the parameters after power-on are any that R10 allows. The second
branch only keeps the free constant inside R10's constraint. -/
def params : Params :=
  if rawParams.valid then rawParams else
    { windowBase := rawParams.windowBase, e2pCmd := 0x000, e2pData := 0x004, macCsrCmd := 0x008,
      macCsrData := 0x00C }

/-- FREE. The value of the n-th free draw of the device (R56, D15; log entry 1). -/
opaque deviceValue : Nat → Half

/-- R9: the magic validity byte. -/
def magic : Byte := 0xA5

/-- R9: `MAC_SHADOW_CMD_BASE`. -/
def macShadowBase : Word := 0xC0000000

end Config

end Sys2Proof
end

