-- ==== Sys2Proof/Syntax.lean ====
section
/-! DEFINITION. The rows of spec/opcode_table.json: eleven requests, eight E2P_CMD command words and the
MAC_CSR_CMD indirect word (30_encoding.md). -/

namespace Sys2Proof

/-- The eight CMD codes of the command word (R71). -/
inductive Cmd where
  | read | ewds | ewen | write | wral | erase | eral | reload
deriving DecidableEq, Repr

/-- The fields of a command word beside CMD (R70, R32). `undescribed` is bits 27:10. -/
structure CmdFields where
  busy         : BitVec 1
  undescribed  : BitVec 18
  timeout      : BitVec 1
  macAddrLoaded : BitVec 1
  addr         : BitVec 8
deriving DecidableEq, Repr

/-- The eleven request operations (R79). -/
inductive Op where
  | writeReg | readReg | readMacShadow | waitIdle | submit | readCell | enableWrite | writeCell
  | disableWrite | dump | programAddress
deriving DecidableEq, Repr

/-- The request formats (R77). -/
inductive Format where
  | hr | hm | hs | hc | hn
deriving DecidableEq, Repr

/-- The space an opcode-table row's words live in (the table's "space"). -/
inductive Space where
  | request   -- a word written to REQ
  | e2pCmd    -- a word written to E2P_CMD on the device port
  | macCsrCmd -- a word written to MAC_CSR_CMD on the device port
deriving DecidableEq, Repr

/-- One constructor for each row of spec/opcode_table.json. -/
inductive Instr where
  | writeReg (off : BitVec 12)                -- WRITE_REG, R104
  | readReg (off : BitVec 12)                 -- READ_REG, R105
  | readMacShadow (idx : BitVec 1)            -- READ_MAC_SHADOW, R106
  | waitIdle                                  -- WAIT_IDLE, R126
  | submit (cmd : Cmd) (addr : BitVec 8)      -- SUBMIT, R127
  | readCell (addr : BitVec 8)                -- READ_CELL, R141
  | enableWrite                               -- ENABLE_WRITE, R143
  | writeCell (addr : BitVec 8) (data : BitVec 8) -- WRITE_CELL, R145
  | disableWrite                              -- DISABLE_WRITE, R147
  | dump                                      -- DUMP, R161
  | programAddress                            -- PROGRAM_ADDRESS, R163
  | e2pRead (f : CmdFields)                   -- E2P_READ, R71
  | e2pEwds (f : CmdFields)                   -- E2P_EWDS, R71
  | e2pEwen (f : CmdFields)                   -- E2P_EWEN, R71
  | e2pWrite (f : CmdFields)                  -- E2P_WRITE, R71
  | e2pWral (f : CmdFields)                   -- E2P_WRAL, R71
  | e2pErase (f : CmdFields)                  -- E2P_ERASE, R71
  | e2pEral (f : CmdFields)                   -- E2P_ERAL, R71
  | e2pReload (f : CmdFields)                 -- E2P_RELOAD, R71
  | macCsrReadShadow (index : BitVec 1)       -- MAC_CSR_READ_SHADOW, R76
deriving DecidableEq, Repr

/-- The command word of a CMD code with the given fields. -/
def Instr.ofCmd : Cmd → CmdFields → Instr
  | .read,   f => .e2pRead f
  | .ewds,   f => .e2pEwds f
  | .ewen,   f => .e2pEwen f
  | .write,  f => .e2pWrite f
  | .wral,   f => .e2pWral f
  | .erase,  f => .e2pErase f
  | .eral,   f => .e2pEral f
  | .reload, f => .e2pReload f

/-- The space of an instruction's words. -/
def Instr.space : Instr → Space
  | .writeReg _ => .request
  | .readReg _ => .request
  | .readMacShadow _ => .request
  | .waitIdle => .request
  | .submit _ _ => .request
  | .readCell _ => .request
  | .enableWrite => .request
  | .writeCell _ _ => .request
  | .disableWrite => .request
  | .dump => .request
  | .programAddress => .request
  | .e2pRead _ => .e2pCmd
  | .e2pEwds _ => .e2pCmd
  | .e2pEwen _ => .e2pCmd
  | .e2pWrite _ => .e2pCmd
  | .e2pWral _ => .e2pCmd
  | .e2pErase _ => .e2pCmd
  | .e2pEral _ => .e2pCmd
  | .e2pReload _ => .e2pCmd
  | .macCsrReadShadow _ => .macCsrCmd

end Sys2Proof
end

