-- ==== Sys2Proof/WellFormed.lean ====
section
/-! DEFINITION. The operand ranges of the requests (30_encoding.md R81, third bullet). An ill-formed request is
decoded and then finished with BAD_ARG by its own range check (R168); it is no other instruction. -/

namespace Sys2Proof

/-- R104, R105: the offset is even and at most 0xFFC. -/
def regOffsetOk (off : BitVec 12) : Bool := off.toNat % 2 == 0 && off.toNat ≤ 0xFFC

/-- Every operand in the range its rule gives (R81). The command words and the indirect word have no
out-of-range value (R81, R106, R127). -/
def Instr.wellFormed : Instr → Bool
  | .writeReg off => regOffsetOk off
  | .readReg off => regOffsetOk off
  | .readMacShadow _ => true
  | .waitIdle => true
  | .submit _ _ => true
  | .readCell addr => decide (addr.toNat ≤ 31)
  | .enableWrite => true
  | .writeCell addr _ => decide (addr.toNat ≤ 6)
  | .disableWrite => true
  | .dump => true
  | .programAddress => true
  | .e2pRead _ => true
  | .e2pEwds _ => true
  | .e2pEwen _ => true
  | .e2pWrite _ => true
  | .e2pWral _ => true
  | .e2pErase _ => true
  | .e2pEral _ => true
  | .e2pReload _ => true
  | .macCsrReadShadow _ => true

end Sys2Proof
end

