-- ==== Sys2Proof/Decode.lean ====
section
/-! DEFINITION. Decoding and encoding of the three word spaces (30_encoding.md R70 to R81), and the host's
`decodeTableWord`. -/

namespace Sys2Proof

/-! ## Codes -/

/-- The numeric CMD codes (R71). -/
def Cmd.code : Cmd → BitVec 3
  | .read => 0 | .ewds => 1 | .ewen => 2 | .write => 3
  | .wral => 4 | .erase => 5 | .eral => 6 | .reload => 7

/-- The CMD code read back (R71); every 3-bit value is one of the eight. -/
def Cmd.ofCode (c : BitVec 3) : Cmd :=
  match c.toNat with
  | 0 => .read | 1 => .ewds | 2 => .ewen | 3 => .write
  | 4 => .wral | 5 => .erase | 6 => .eral | _ => .reload

/-- The OP codes (R79). -/
def Op.code : Op → BitVec 4
  | .writeReg => 0x1 | .readReg => 0x2 | .readMacShadow => 0x3 | .waitIdle => 0x4
  | .submit => 0x5 | .readCell => 0x6 | .enableWrite => 0x7 | .writeCell => 0x8
  | .disableWrite => 0x9 | .dump => 0xA | .programAddress => 0xB

/-- The operation an OP code selects; 0x0 and 0xC to 0xF are reserved (R79, R81). -/
def Op.ofCode (c : BitVec 4) : Option Op :=
  match c.toNat with
  | 0x1 => some .writeReg | 0x2 => some .readReg | 0x3 => some .readMacShadow
  | 0x4 => some .waitIdle | 0x5 => some .submit | 0x6 => some .readCell
  | 0x7 => some .enableWrite | 0x8 => some .writeCell | 0x9 => some .disableWrite
  | 0xA => some .dump | 0xB => some .programAddress
  | _ => none

/-- The format an operation's requests have (R79). -/
def Op.format : Op → Format
  | .writeReg => .hr | .readReg => .hr | .readMacShadow => .hm | .waitIdle => .hn
  | .submit => .hs | .readCell => .hc | .enableWrite => .hn | .writeCell => .hc
  | .disableWrite => .hn | .dump => .hn | .programAddress => .hn

/-- The match value of R80's table. -/
def Op.matchBits : Op → Word
  | .writeReg => 0x10000000 | .readReg => 0x20000000 | .readMacShadow => 0x30000000
  | .waitIdle => 0x40000000 | .submit => 0x50000000 | .readCell => 0x60000000
  | .enableWrite => 0x70000000 | .writeCell => 0x80000000 | .disableWrite => 0x90000000
  | .dump => 0xA0000000 | .programAddress => 0xB0000000

/-- The mask of R80's table: OP and every reserved bit. -/
def Op.mask : Op → Word
  | .writeReg => 0xF000FFFF | .readReg => 0xF000FFFF | .readMacShadow => 0xFFFEFFFF
  | .waitIdle => 0xFFFFFFFF | .submit => 0xFFF800FF | .readCell => 0xFFFF00FF
  | .enableWrite => 0xFFFFFFFF | .writeCell => 0xFFFF0000 | .disableWrite => 0xFFFFFFFF
  | .dump => 0xFFFFFFFF | .programAddress => 0xFFFFFFFF

/-! ## Operand fields (R78): no scaling, no sign extension -/

/-- OFF, `q[27:16]`. -/
def reqOff (q : Word) : BitVec 12 := q.extractLsb' 16 12
/-- IDX, `q[16]`. -/
def reqIdx (q : Word) : BitVec 1 := q.extractLsb' 16 1
/-- CMD, `q[18:16]`. -/
def reqCmd (q : Word) : Cmd := Cmd.ofCode (q.extractLsb' 16 3)
/-- ADDR, `q[15:8]`. -/
def reqAddr (q : Word) : BitVec 8 := q.extractLsb' 8 8
/-- DATA, `q[7:0]`. -/
def reqData (q : Word) : BitVec 8 := q.extractLsb' 0 8
/-- OP, `q[31:28]` (R77). -/
def reqOp (q : Word) : BitVec 4 := q.extractLsb' 28 4

/-- The request of an operation with the operands of the word `q` (R78). -/
def Op.instr (q : Word) : Op → Instr
  | .writeReg => .writeReg (reqOff q)
  | .readReg => .readReg (reqOff q)
  | .readMacShadow => .readMacShadow (reqIdx q)
  | .waitIdle => .waitIdle
  | .submit => .submit (reqCmd q) (reqAddr q)
  | .readCell => .readCell (reqAddr q)
  | .enableWrite => .enableWrite
  | .writeCell => .writeCell (reqAddr q) (reqData q)
  | .disableWrite => .disableWrite
  | .dump => .dump
  | .programAddress => .programAddress

/-! ## Decoding -/

/-- The names by which a word is rejected. -/
inductive Reject where
  | badOp            -- a request whose OP is reserved (R81, R191)
  | badArg           -- a request whose reserved bits are not all 0 (R81, R192)
  | notShadowCommand -- a MAC_CSR_CMD word that is not 0xC0000000 + index (R76)
deriving DecidableEq, Repr

/-- R168, second and third lines: the OP field first, then the reserved bits. -/
def decodeReq (q : Word) : Except Reject Instr :=
  match Op.ofCode (reqOp q) with
  | none => .error .badOp
  | some op => if q &&& op.mask = op.matchBits then .ok (op.instr q) else .error .badArg

/-- The fields of a word of E2P_CMD beside CMD (R70). -/
def cmdFields (w : Word) : CmdFields :=
  { busy := w.extractLsb' 31 1, undescribed := w.extractLsb' 10 18, timeout := w.extractLsb' 9 1,
    macAddrLoaded := w.extractLsb' 8 1, addr := w.extractLsb' 0 8 }

/-- Every word of E2P_CMD is one of the eight commands (R70, R71). -/
def decodeCommand (w : Word) : Instr :=
  Instr.ofCmd (Cmd.ofCode (w.extractLsb' 28 3)) (cmdFields w)

/-- The indirect word of MAC_CSR_CMD (R76): 0xC0000000 or 0xC0000001. -/
def decodeIndirect (w : Word) : Except Reject Instr :=
  if w &&& 0xFFFFFFFE = 0xC0000000 then .ok (.macCsrReadShadow (w.extractLsb' 0 1))
  else .error .notShadowCommand

/-- The decoder of a space. -/
def decodeIn : Space → Word → Except Reject Instr
  | .request, w => decodeReq w
  | .e2pCmd, w => .ok (decodeCommand w)
  | .macCsrCmd, w => decodeIndirect w

/-! ## Encoding -/

/-- A command word as its fields stand in R70's table. -/
def cmdWordOf (c : Cmd) (f : CmdFields) : Word :=
  f.busy ++ c.code ++ f.undescribed ++ f.timeout ++ f.macAddrLoaded ++ f.addr

/-- The word of an instruction (R77 for requests, R70 for command words, R76 for the indirect
word). -/
def encode : Instr → Word
  | .writeReg off => 0x1#4 ++ off ++ 0#16
  | .readReg off => 0x2#4 ++ off ++ 0#16
  | .readMacShadow idx => 0x3#4 ++ 0#11 ++ idx ++ 0#16
  | .waitIdle => 0x4#4 ++ 0#28
  | .submit cmd addr => 0x5#4 ++ 0#9 ++ cmd.code ++ addr ++ 0#8
  | .readCell addr => 0x6#4 ++ 0#12 ++ addr ++ 0#8
  | .enableWrite => 0x7#4 ++ 0#28
  | .writeCell addr data => 0x8#4 ++ 0#12 ++ addr ++ data
  | .disableWrite => 0x9#4 ++ 0#28
  | .dump => 0xA#4 ++ 0#28
  | .programAddress => 0xB#4 ++ 0#28
  | .e2pRead f => cmdWordOf .read f
  | .e2pEwds f => cmdWordOf .ewds f
  | .e2pEwen f => cmdWordOf .ewen f
  | .e2pWrite f => cmdWordOf .write f
  | .e2pWral f => cmdWordOf .wral f
  | .e2pErase f => cmdWordOf .erase f
  | .e2pEral f => cmdWordOf .eral f
  | .e2pReload f => cmdWordOf .reload f
  | .macCsrReadShadow index => 0x60000000#31 ++ index

/-! ## The opcode table's rows -/

/-- The row's match value in spec/opcode_table.json. -/
def Instr.matchBits : Instr → Word
  | .writeReg _ => 0x10000000 | .readReg _ => 0x20000000 | .readMacShadow _ => 0x30000000
  | .waitIdle => 0x40000000 | .submit _ _ => 0x50000000 | .readCell _ => 0x60000000
  | .enableWrite => 0x70000000 | .writeCell _ _ => 0x80000000 | .disableWrite => 0x90000000
  | .dump => 0xA0000000 | .programAddress => 0xB0000000
  | .e2pRead _ => 0x00000000 | .e2pEwds _ => 0x10000000 | .e2pEwen _ => 0x20000000
  | .e2pWrite _ => 0x30000000 | .e2pWral _ => 0x40000000 | .e2pErase _ => 0x50000000
  | .e2pEral _ => 0x60000000 | .e2pReload _ => 0x70000000
  | .macCsrReadShadow _ => 0xC0000000

/-- The row's mask in spec/opcode_table.json. -/
def Instr.maskBits : Instr → Word
  | .writeReg _ => 0xF000FFFF | .readReg _ => 0xF000FFFF | .readMacShadow _ => 0xFFFEFFFF
  | .waitIdle => 0xFFFFFFFF | .submit _ _ => 0xFFF800FF | .readCell _ => 0xFFFF00FF
  | .enableWrite => 0xFFFFFFFF | .writeCell _ _ => 0xFFFF0000 | .disableWrite => 0xFFFFFFFF
  | .dump => 0xFFFFFFFF | .programAddress => 0xFFFFFFFF
  | .e2pRead _ => 0x70000000 | .e2pEwds _ => 0x70000000 | .e2pEwen _ => 0x70000000
  | .e2pWrite _ => 0x70000000 | .e2pWral _ => 0x70000000 | .e2pErase _ => 0x70000000
  | .e2pEral _ => 0x70000000 | .e2pReload _ => 0x70000000
  | .macCsrReadShadow _ => 0xFFFFFFFE

/-- DESIGN CHOICE, log entry 8: the three spaces overlap as numbers, and the table's words carry no
mark of their space. A word is read as a request where REQ's decoder takes it, else as the indirect
word of MAC_CSR_CMD, else as a command word of E2P_CMD. -/
def tableSpace (w : Word) : Space :=
  match decodeReq w, decodeIndirect w with
  | .ok _, _ => .request
  | .error _, .ok _ => .macCsrCmd
  | .error _, .error _ => .e2pCmd

/-- The instruction read from one opcode-table row's word. Every row has 32 bits, one word; a longer
row is none of this hardware's. -/
def decodeTableWord (nbits w : Nat) : Option Instr :=
  if nbits ≤ 32 then
    let q : Word := BitVec.ofNat 32 (w % 2 ^ nbits)
    match decodeIn (tableSpace q) q with
    | .ok i => some i
    | .error _ => none
  else none

end Sys2Proof
end

