-- ==== Sys2Proof/Machine/State.lean ====
section
/-! DEFINITION. The machine's state as plain data (10_state.md), its two kinds of stop, and the state after
power-on. -/

namespace Sys2Proof.Machine

/-! ## The program point (43_sequencer.md R170) -/

/-- `SEQST`, the sequencer phase. -/
inductive SeqSt where
  | idle     -- S_IDLE: no request in progress and not halted
  | single   -- S_SINGLE: one of the nine single requests in progress
  | dumpPre  -- S_DUMP_PRE: DUMP, or step 1 of PROGRAM_ADDRESS
  | unlock   -- S_UNLOCK: step 2
  | write    -- S_WRITE: step 3
  | lock     -- S_LOCK: step 4
  | dumpPost -- S_DUMP_POST: step 5
  | halted   -- S_HALTED: after FATAL_TIMEOUT, until reset
deriving DecidableEq, Repr

/-- `CMDST`, the command-FSM state: what the next transaction belongs to. Codes 11 to 15 never
occur (R24). -/
inductive CmdSt where
  | idle     -- C_IDLE: none, after reset or a rejected request
  | prewait  -- C_PREWAIT: a pre-wait poll
  | data     -- C_DATA: the E2P_DATA write of writeCell
  | issue1   -- C_ISSUE1: phase 1 of submitCommand
  | issue2   -- C_ISSUE2: phase 2 of submitCommand
  | busy     -- C_BUSY: a post-wait poll, or WAIT_IDLE's
  | check    -- C_CHECK: the timeout check
  | complete -- C_COMPLETE: none, the last request finished OK
  | timeout  -- C_TIMEOUT: none, the last request halted
  | xfer     -- C_XFER: WRITE_REG, READ_REG, READ_MAC_SHADOW
  | read     -- C_READ: the E2P_DATA read of readCell
deriving DecidableEq, Repr

/-- `STATUS.OUTCOME` (60_exceptions.md R190). Codes 5 to 7 are never written. -/
inductive OutcomeCode where
  | none | ok | fatalTimeout | badOp | badArg
deriving DecidableEq, Repr

/-! ## The device's side -/

/-- One device-port event of a bus trace (00_scope.md R12, R13). -/
inductive BusEvent where
  | write (off : Offset) (v : Half)
  | read (off : Offset) (v : Half)
deriving DecidableEq, Repr

/-- The byte view of the register window (20_memory.md R51, R55): the bytes the device port last
wrote, as pairs in one canonical form (`Memory.wf` in Machine/Ops.lean). -/
abbrev Memory := List Host.Cell

/-- What an unlisted byte of the window reads as. DESIGN CHOICE, log entry 5, after RD3 "plain memory
0"; the live device never reads it. -/
def unlistedByte : Byte := 0

/-- The spec's reference device (95_test_vectors.md RD1, RD2): a test double, no claim about the
controller (R8, D21; log entry 3). -/
structure RefDevice where
  b       : Nat             -- RD1: BUSY = 1 high-half reads after each command start
  present : Bool            -- RD1: an EEPROM is attached
  macreg0 : Word            -- RD1: MACREG[0]
  macreg1 : Word            -- RD1: MACREG[1]
  lo      : Half            -- last value written to CMD
  last15  : Bool            -- bit 15 of the last value written to CMD+2
  bc      : Nat             -- busy counter
  tmo     : Bool            -- TO
  mal     : Bool
  we      : Bool
  data    : Word
  cells   : Vector Byte 32
  csrc    : Word
  csrd    : Word
deriving DecidableEq, Repr

/-- RD3: the initial state, with the cells a vector names (all 0xFF unless it says otherwise). -/
def RefDevice.initial (b : Nat) (present : Bool) (macreg0 macreg1 : Word)
    (cells : Vector Byte 32 := Vector.replicate 32 0xFF) : RefDevice :=
  { b, present, macreg0, macreg1, lo := 0, last15 := false, bc := 0, tmo := false, mal := false,
    we := false, data := 0, cells, csrc := 0, csrd := 0 }

/-- The device behind the port. With `ref = none` it is live (R56): a read takes the next value of
`answers`, which the environment fixes, and where that list is empty the free value number `draws`
(log entry 1). -/
structure Device where
  ref     : Option RefDevice
  answers : List Half
  draws   : Nat
deriving DecidableEq, Repr

/-! ## The host's side -/

/-- A pending action of the host, the platform or the schedule (log entry 6). -/
inductive Input where
  | writeReq (q : Word)                  -- host write of REQ (R21)
  | writeArgVal (v : Word)               -- host write of ARG_VAL (R22)
  | writeArgMac (j : Fin 6) (b : Byte)   -- host write of ARG_MAC[j] (R23)
  | reset                                -- the reset event (R210)
  | tick                                 -- the EPB takes one step before the next input
  | poll                                 -- the host waits for READY or HALTED (R82)
  | command (w : Word)                   -- a word written to E2P_CMD outside any request (log entry 8)
  | indirect (index : BitVec 1)          -- the indirect word written outside any request (log entry 8)
deriving DecidableEq, Repr

/-! ## Stops -/

/-- The faults. None is the hardware's: the EPB has no trap (60_exceptions.md). Each names a state no
run reaches, and stopping there is SAFE (log entry 14). -/
inductive Fault where
  /-- Raised by a transaction step whose program point is none R170 and R172 give the request.
  Safe. -/
  | noSuchPoint
  /-- Raised by a transaction step of WRITE_REG or READ_REG whose `CUR_OFF` is odd or above 0xFFC, an
  offset the acceptance never lets through (R57, R104, R105). Safe. -/
  | illegalOffset (off : Offset)
  /-- Raised by the fetch when an operation is in progress and `REQ` holds no request. Safe. -/
  | noRequest
deriving DecidableEq, Repr

/-- The refusals. -/
inductive Refusal where
  /-- Raised by a dispatch arm whose instruction has no meaning yet; no arm of this model does.
  Safe. -/
  | notModelled (mnemonic : String)
deriving DecidableEq, Repr

/-! ## The state -/

structure State where
  -- host port (R20)
  req     : Word            -- REQ
  argVal  : Word            -- ARG_VAL
  argMac  : Vector Byte 6   -- ARG_MAC[0..5]
  ready   : Bool            -- STATUS.READY
  halted  : Bool            -- STATUS.HALTED
  outcome : OutcomeCode     -- STATUS.OUTCOME
  opst    : BitVec 4        -- STATUS.OPST
  res     : Word            -- RES
  lastCmd : Word            -- LAST_CMD
  preImg  : Vector Byte 32  -- PRE_IMG[0..31]
  postImg : Vector Byte 32  -- POST_IMG[0..31]
  -- internal registers (R28)
  curOp   : BitVec 4        -- CUR_OP
  curOff  : Offset          -- CUR_OFF
  curIdx  : BitVec 1        -- CUR_IDX
  curCmd  : Cmd             -- CUR_CMD
  curAddr : Byte            -- CUR_ADDR
  curData : Byte            -- CUR_DATA
  curVal  : Word            -- CUR_VAL
  curMac  : Vector Byte 6   -- CUR_MAC[0..5]
  latchLo : Half            -- LATCH_LO
  seqst   : SeqSt           -- SEQST
  cmdst   : CmdSt           -- CMDST
  cell    : CellIx          -- CELL
  half    : Bool            -- HALF
  toSeen  : Bool            -- TO
  macReading : Bool         -- R30's position in readMacShadowRegister (log entry 10)
  -- parameters of this EPB (R10), fixed
  params  : Params
  -- the device's side (R31 to R36)
  window  : Memory
  device  : Device
  -- the model's own
  inputs  : List Input      -- pending host and platform actions (log entry 6)
  trace   : List BusEvent   -- the bus trace so far, oldest first (R13, log entry 12)
deriving DecidableEq, Repr

/-- The three outcomes of a step of this machine. -/
abbrev Result := Host.Outcome State Fault Refusal

/-- Power-on, which is a reset (R37, R210, R213). The device is the live one, its state unknown (R38);
the parameters are any that R10 allows. -/
def State.reset : State :=
  { req := 0, argVal := 0, argMac := Vector.replicate 6 0
    ready := true, halted := false, outcome := .none, opst := 0
    res := 0, lastCmd := 0, preImg := Vector.replicate 32 0, postImg := Vector.replicate 32 0
    curOp := 0, curOff := 0, curIdx := 0, curCmd := .read, curAddr := 0, curData := 0, curVal := 0
    curMac := Vector.replicate 6 0, latchLo := 0
    seqst := .idle, cmdst := .idle, cell := 0, half := false, toSeen := false, macReading := false
    params := Config.params
    window := [], device := { ref := none, answers := [], draws := 0 }
    inputs := [], trace := [] }

end Sys2Proof.Machine
end

