-- ==== Sys2Proof/Machine/Operands.lean ====
section
/-! DEFINITION. The words the EPB puts together and takes apart: half-words (20_memory.md R53), the command,
data and indirect words it writes (30_encoding.md R72, R75, R76), and the operand range checks
(R81). -/

namespace Sys2Proof.Machine

/-- Bits 15:0 of a logical register (R53). -/
def loHalf (v : Word) : Half := v.extractLsb' 0 16

/-- Bits 31:16 of a logical register (R53). -/
def hiHalf (v : Word) : Half := v.extractLsb' 16 16

/-- `hi ++ lo`, the joined value of a logical read (R101). -/
def joinHalves (hi lo : Half) : Word := hi ++ lo

/-- R72: `encode(busy, cmd, addr)`, bits 27:8 written 0. -/
def cmdWord (busy : Bool) (c : Cmd) (addr : Byte) : Word :=
  (if busy then (1#32 <<< 31) else 0#32) ||| (c.code.setWidth 32 <<< 28) ||| addr.setWidth 32

/-- R75: the data word, `zext_32(byte)`. -/
def dataWord (b : Byte) : Word := b.setWidth 32

/-- R76: the indirect command word, `0xC0000000 + zext_32(index)`. -/
def macShadowWord (index : BitVec 1) : Word := Config.macShadowBase + index.setWidth 32

/-- The ADDR a cell operation's command carries: `zext_8(CELL)` (R140, R144); CELL is 0 in the unlock
and the lock (R142, R146). -/
def cellAddr (c : CellIx) : Byte := c.setWidth 8

/-- The byte of a data register value: bits 7:0 (R33, R140). -/
def dataByte (d : Word) : Byte := d.extractLsb' 0 8

/-- R104, R105: `CUR_OFF[0] = 1 or CUR_OFF > 0xFFC`. -/
def offsetRejected (off : Offset) : Bool := off.getLsbD 0 || decide (off.toNat > 0xFFC)

/-- R141: `CUR_ADDR > 31`. -/
def readCellRejected (addr : Byte) : Bool := decide (addr.toNat > 31)

/-- R145: `CUR_ADDR > 6`. -/
def writeCellRejected (addr : Byte) : Bool := decide (addr.toNat > 6)

/-- `CUR_ADDR[4:0]`, the cell of a READ_CELL or WRITE_CELL (R141, R145). -/
def cellOfAddr (addr : Byte) : CellIx := addr.setWidth 5

/-- R162 step 3: the byte that goes to cell j+1 is `A[j]`. -/
def macByte (m : Vector Byte 6) (j : Nat) : Byte := m[j]?.getD 0

end Sys2Proof.Machine
end

