-- ==== Sys2Proof/Machine/Device.lean ====
section
/-! DEFINITION. The device behind the port: the live device of 20_memory.md R56 and the reference device of
95_test_vectors.md RD1 to RD11. The window's plain bytes (RD11) are `State.window`; this file says
what a half-word read answers and how the device moves on a read and a write. -/

namespace Sys2Proof.Machine

/-- The value of the next free draw: the environment's next answer, else the free value of the
counter (R56, log entry 1). -/
def Device.freeHalf (d : Device) : Half :=
  match d.answers with
  | v :: _ => v
  | [] => Config.deviceValue d.draws

/-- The device after one free draw. -/
def Device.drawn (d : Device) : Device :=
  match d.answers with
  | _ :: rest => { d with answers := rest }
  | [] => { d with draws := d.draws + 1 }

/-- RD7: TO << 9 | MAL << 8, with no ADDR echo. -/
def RefDevice.statusLo (r : RefDevice) : Half :=
  (if r.tmo then 0x0200 else 0) ||| (if r.mal then 0x0100 else 0)

/-- RD8: 0x8000 while the busy counter runs, else 0x0000. -/
def RefDevice.statusHi (r : RefDevice) : Half := if r.bc > 0 then 0x8000 else 0x0000

/-- RD6, "if PRESENT = 1": the effect of a command on the EEPROM. -/
def RefDevice.effect (c : Cmd) (a : Byte) (r : RefDevice) : RefDevice :=
  match c with
  | .read => { r with data := if h : a.toNat < 32 then dataWord (r.cells[a.toNat]) else 0x000000FF }
  | .ewds => { r with we := false }
  | .ewen => { r with we := true }
  | .write => if r.we then { r with cells := r.cells.setIfInBounds a.toNat (dataByte r.data) } else r
  | .wral => if r.we then { r with cells := Vector.replicate 32 (dataByte r.data) } else r
  | .erase => if r.we then { r with cells := r.cells.setIfInBounds a.toNat 0xFF } else r
  | .eral => if r.we then { r with cells := Vector.replicate 32 0xFF } else r
  | .reload => { r with mal := r.cells[0] == 0xA5 }

/-- RD6: a command starts. -/
def RefDevice.start (c : Cmd) (a : Byte) (r : RefDevice) : RefDevice :=
  if r.present then RefDevice.effect c a { r with bc := r.b, tmo := false }
  else { r with bc := r.b, tmo := true }

/-- RD5: the write of CMD+2. A command starts when bit 15 goes from 0 to 1. -/
def RefDevice.writeCmdHi (v : Half) (r : RefDevice) : RefDevice :=
  let started :=
    if v.getLsbD 15 && !r.last15 then
      RefDevice.start (Cmd.ofCode (v.extractLsb' 12 3)) (r.lo.extractLsb' 0 8) r
    else r
  { started with last15 := v.getLsbD 15 }

/-- RD10: the write of CSRC+2; bit 15 fetches MACREG[CSRC[0]] into CSRD. -/
def RefDevice.writeCsrcHi (v : Half) (r : RefDevice) : RefDevice :=
  let r' := { r with csrc := joinHalves v (loHalf r.csrc) }
  if v.getLsbD 15 then
    { r' with csrd := if r.csrc.getLsbD 0 then r.macreg1 else r.macreg0 }
  else r'

/-- What a read of the half-word at `off` answers (R56; RD7 to RD11). `mem` is the half-word the window
holds there. A read of CSRC is a free value: RD10 gives it none (log entry 4). -/
def Device.answer (p : Params) (off : Offset) (mem : Half) (d : Device) : Half :=
  match d.ref with
  | none => d.freeHalf
  | some r =>
    if off = p.e2pCmd then r.statusLo
    else if off = p.e2pCmd + 2 then r.statusHi
    else if off = p.e2pData then loHalf r.data
    else if off = p.e2pData + 2 then hiHalf r.data
    else if off = p.macCsrData then loHalf r.csrd
    else if off = p.macCsrData + 2 then hiHalf r.csrd
    else if off = p.macCsrCmd ∨ off = p.macCsrCmd + 2 then d.freeHalf
    else mem

/-- The device after a read (R56; RD8). -/
def Device.afterRead (p : Params) (off : Offset) (d : Device) : Device :=
  match d.ref with
  | none => d.drawn
  | some r =>
    if off = p.e2pCmd + 2 then { d with ref := some { r with bc := r.bc - 1 } }
    else if off = p.macCsrCmd ∨ off = p.macCsrCmd + 2 then d.drawn
    else d

/-- The device after a write (R59, R60; RD4, RD5, RD9, RD10). The half of CSRD that a write names
becomes a free value: RD10 gives such a write no effect (log entry 4). -/
def Device.afterWrite (p : Params) (off : Offset) (v : Half) (d : Device) : Device :=
  match d.ref with
  | none => d
  | some r =>
    if off = p.e2pCmd then { d with ref := some { r with lo := v } }
    else if off = p.e2pCmd + 2 then { d with ref := some (r.writeCmdHi v) }
    else if off = p.e2pData then { d with ref := some { r with data := joinHalves (hiHalf r.data) v } }
    else if off = p.e2pData + 2 then
      { d with ref := some { r with data := joinHalves v (loHalf r.data) } }
    else if off = p.macCsrCmd then
      { d with ref := some { r with csrc := joinHalves (hiHalf r.csrc) v } }
    else if off = p.macCsrCmd + 2 then { d with ref := some (r.writeCsrcHi v) }
    else if off = p.macCsrData then
      { d.drawn with ref := some { r with csrd := joinHalves (hiHalf r.csrd) d.freeHalf } }
    else if off = p.macCsrData + 2 then
      { d.drawn with ref := some { r with csrd := joinHalves d.freeHalf (loHalf r.csrd) } }
    else d

end Sys2Proof.Machine
end

