-- ==== Sys2Proof/Machine/Flags.lean ====
section
/-! DEFINITION. The STATUS word (10_state.md R24), its field codes (43_sequencer.md R170, 60_exceptions.md R190)
and the two bits the EPB decodes from E2P_CMD (30_encoding.md R74). -/

namespace Sys2Proof.Machine

/-- R74: `busy(v) = v[31]`. -/
def busyBit (v : Word) : Bool := v.getLsbD 31

/-- R74: `timeout(v) = v[9]`. -/
def timeoutBit (v : Word) : Bool := v.getLsbD 9

/-- The SEQST codes of R170. -/
def SeqSt.code : SeqSt → BitVec 4
  | .idle => 0 | .single => 1 | .dumpPre => 2 | .unlock => 3
  | .write => 4 | .lock => 5 | .dumpPost => 6 | .halted => 7

/-- The CMDST codes of R170. -/
def CmdSt.code : CmdSt → BitVec 4
  | .idle => 0 | .prewait => 1 | .data => 2 | .issue1 => 3 | .issue2 => 4 | .busy => 5
  | .check => 6 | .complete => 7 | .timeout => 8 | .xfer => 9 | .read => 10

/-- The OUTCOME codes of R190. -/
def OutcomeCode.code : OutcomeCode → BitVec 3
  | .none => 0 | .ok => 1 | .fatalTimeout => 2 | .badOp => 3 | .badArg => 4

/-- The STATUS register as the host reads it (R24), reserved bits 0:
31:27 reserved, 26 TO, 25 HALF, 24:20 CELL, 19:16 CMDST, 15:12 SEQST, 11:8 OPST, 7:5 reserved,
4:2 OUTCOME, 1 HALTED, 0 READY. -/
def State.status (s : State) : Word :=
  0#5 ++ BitVec.ofBool s.toSeen ++ BitVec.ofBool s.half ++ s.cell ++ s.cmdst.code ++ s.seqst.code ++
    s.opst ++ 0#3 ++ s.outcome.code ++ BitVec.ofBool s.halted ++ BitVec.ofBool s.ready

end Sys2Proof.Machine
end

