-- ==== Sys2Proof/Machine/Ops.lean ====
section
/-! DEFINITION. The operations the requests share: the window's bytes, the device-port transactions (20_memory.md),
the Register Transport (40_transport.md), outcomes and the fatal halt (43_sequencer.md R169,
60_exceptions.md), acceptance (R168), and the protocol primitives (41_protocol_primitives.md). -/

namespace Sys2Proof.Machine

/-! ## The window's bytes -/

/-- The byte at an address. -/
def Memory.read : Memory → Nat → Byte
  | [], _ => unlistedByte
  | (k, v) :: m, a => if k = a then v else Memory.read m a

/-- Writing a byte keeps addresses rising and lists no byte equal to what an unlisted one reads as. -/
def Memory.write : Memory → Nat → Byte → Memory
  | [], a, b => if b = unlistedByte then [] else [(a, b)]
  | (k, v) :: m, a, b =>
    if a < k then (if b = unlistedByte then (k, v) :: m else (a, b) :: (k, v) :: m)
    else if a = k then (if b = unlistedByte then m else (a, b) :: m)
    else (k, v) :: Memory.write m a b

/-- Every address of the list is at least `lo`, rising, inside the 4 KiB window, with a byte that
differs from an unlisted one. -/
def Memory.wfFrom : Nat → Memory → Bool
  | _, [] => true
  | lo, (k, v) :: m => decide (lo ≤ k) && decide (k < 4096) && decide (v ≠ unlistedByte) &&
      Memory.wfFrom (k + 1) m

/-- The canonical form. -/
def Memory.wf (m : Memory) : Bool := Memory.wfFrom 0 m

/-- R55: bits 7:0 at the offset, bits 15:8 at offset+1. -/
def Memory.readHalf (m : Memory) (off : Offset) : Half :=
  Memory.read m (off + 1).toNat ++ Memory.read m off.toNat

/-- R55, the same lanes. -/
def Memory.writeHalf (m : Memory) (off : Offset) (v : Half) : Memory :=
  Memory.write (Memory.write m off.toNat (v.extractLsb' 0 8)) (off + 1).toNat (v.extractLsb' 8 8)

/-! ## Register writes: `x <- v` (R12) -/

/-- `HALF <- b`. -/
def State.setHalf (b : Bool) (s : State) : State := { s with half := b }
/-- `LATCH_LO <- v`. -/
def State.setLatch (v : Half) (s : State) : State := { s with latchLo := v }
/-- `CMDST <- c`. -/
def State.setCmdst (c : CmdSt) (s : State) : State := { s with cmdst := c }
/-- `SEQST <- q`. -/
def State.setSeqst (q : SeqSt) (s : State) : State := { s with seqst := q }
/-- `CELL <- c`. -/
def State.setCell (c : CellIx) (s : State) : State := { s with cell := c }
/-- `LAST_CMD <- v`. -/
def State.setLastCmd (v : Word) (s : State) : State := { s with lastCmd := v }
/-- `RES <- v`. -/
def State.setRes (v : Word) (s : State) : State := { s with res := v }
/-- `TO <- b`. -/
def State.setTo (b : Bool) (s : State) : State := { s with toSeen := b }
/-- `CUR_CMD <- c`. -/
def State.setCurCmd (c : Cmd) (s : State) : State := { s with curCmd := c }
/-- `CUR_ADDR <- a`. -/
def State.setCurAddr (a : Byte) (s : State) : State := { s with curAddr := a }
/-- `CUR_DATA <- b`. -/
def State.setCurData (b : Byte) (s : State) : State := { s with curData := b }
/-- The position in `readMacShadowRegister` (R30, R103). -/
def State.setMacReading (b : Bool) (s : State) : State := { s with macReading := b }
/-- `PRE_IMG[c] <- b` (R27). -/
def State.setPre (c : CellIx) (b : Byte) (s : State) : State :=
  { s with preImg := s.preImg.set c.toNat b c.isLt }
/-- `POST_IMG[c] <- b` (R27). -/
def State.setPost (c : CellIx) (b : Byte) (s : State) : State :=
  { s with postImg := s.postImg.set c.toNat b c.isLt }

/-! ## Device-port transactions (R12, R50, R56, R59) -/

/-- The value `MemRead(off, 2)` returns in this state. -/
def State.readValue (off : Offset) (s : State) : Half :=
  s.device.answer s.params off (Memory.readHalf s.window off)

/-- `MemRead(off, 2)`: the event and the device's move. -/
def State.portRead (off : Offset) (s : State) : State :=
  { s with
    device := s.device.afterRead s.params off
    trace := s.trace ++ [.read off (s.readValue off)] }

/-- `MemWrite(off, 2, v)`: the event, the window's bytes and the device's move. -/
def State.portWrite (off : Offset) (v : Half) (s : State) : State :=
  { s with
    device := s.device.afterWrite s.params off v
    window := Memory.writeHalf s.window off v
    trace := s.trace ++ [.write off v] }

/-! ## The Register Transport, one half-word a step (R100, R101, R174) -/

/-- The next transaction of `writeRegister(o, v)`: low half while HALF = 0, then the high half, after
which the rest of the step, `k`, runs (R100). -/
def State.writeRegister (o : Offset) (v : Word) (k : State → State) (s : State) : State :=
  if s.half then k ((s.portWrite (o + 2) (hiHalf v)).setHalf false)
  else (s.portWrite o (loHalf v)).setHalf true

/-- The next transaction of `readRegister(o)`: low half into LATCH_LO while HALF = 0, then the high half,
after which the rest of the step, `k`, runs on the joined value (R101). -/
def State.readRegister (o : Offset) (k : Word → State → State) (s : State) : State :=
  if s.half then
    k (joinHalves (s.readValue (o + 2)) s.latchLo) ((s.portRead (o + 2)).setHalf false)
  else ((s.portRead o).setLatch (s.readValue o)).setHalf true

/-- Both transactions of a register write at once: a word put on the device port outside any request
(R100; log entry 8). -/
def State.writeWord (o : Offset) (v : Word) (s : State) : State :=
  (s.portWrite o (loHalf v)).portWrite (o + 2) (hiHalf v)

/-! ## Outcomes: this hardware's exceptions (R169, R190 to R193) -/

/-- `finish(c)`, the one way an operation ends. FATAL_TIMEOUT enters S_HALTED; every other outcome is its
own return, to S_IDLE (R199). -/
def State.finish (c : OutcomeCode) (s : State) : State :=
  { s with
    outcome := c, opst := 0, cell := 0, half := false, macReading := false
    seqst := if c = .fatalTimeout then .halted else .idle
    cmdst := if c = .fatalTimeout then .timeout else if c = .ok then .complete else .idle
    halted := if c = .fatalTimeout then true else s.halted
    ready := if c = .fatalTimeout then false else true }

/-- An operation's ordinary end: `RES <- v; raise Outcome(OK)`. -/
def State.finishOk (v : Word) (s : State) : State := (s.setRes v).finish .ok

/-- The reset event (R210, R211): every EPB register at its reset value, the operation abandoned, no
transaction. The device, the window and the parameters are not the EPB's to reset; the pending inputs
and the trace are the model's own and stay. -/
def State.resetEvent (s : State) : State :=
  { State.reset with
    params := s.params, window := s.window, device := s.device, inputs := s.inputs
    trace := s.trace }

/-! ## Acceptance (R168) -/

/-- R168's first lines, which a rejected request runs too: REQ, READY, CUR_OP and OPST. -/
def State.latchRequest (q : Word) (s : State) : State :=
  { s with req := q, ready := false, curOp := reqOp q, opst := reqOp q }

/-- R78: copy the fields of the request's format; the registers of other formats keep their values. -/
def State.copyFields (f : Format) (q : Word) (s : State) : State :=
  { s with
    curOff := if f = .hr then reqOff q else s.curOff
    curIdx := if f = .hm then reqIdx q else s.curIdx
    curCmd := if f = .hs then reqCmd q else s.curCmd
    curAddr := if f = .hs ∨ f = .hc then reqAddr q else s.curAddr
    curData := if f = .hc then reqData q else s.curData }

/-- R168, R22, R23: `CUR_VAL <- ARG_VAL; CUR_MAC <- ARG_MAC`. -/
def State.withArgs (s : State) : State := { s with curVal := s.argVal, curMac := s.argMac }

/-- R168 up to the operation's own pseudocode, and the `HALF <- 0` with which its first register access begins
(R100, R101, R174). -/
def State.accept (f : Format) (q : Word) (s : State) : State :=
  ((((s.latchRequest q).copyFields f q).withArgs).setHalf false).setMacReading false

/-- R168 for a request the decoder rejects: BAD_OP or BAD_ARG, no field copied, no transaction
(R191, R192). -/
def State.rejectRequest (q : Word) (c : OutcomeCode) (s : State) : State :=
  (s.latchRequest q).finish c

/-- One step of the request `i` of format `f`. Where READY = 1 it is the acceptance step: R168, then
`start`, the pseudocode up to the first transaction. Where `i` is the request in progress (REQ holds it)
it is `go`, the next transaction step (R174). In every other state the request is discarded (R21,
R193; log entry 15). -/
def State.runRequest (i : Instr) (f : Format) (start : State → State) (go : State → Result)
    (s : State) : Result :=
  if s.ready then .next (start (s.accept f (encode i)))
  else if s.halted = false ∧ s.req = encode i then go s
  else .next s

/-! ## The protocol primitives -/

/-- One transaction of `waitIdle` (R120). The high half ends one iteration: LAST_CMD takes the value; BUSY
stays in the loop (CMDST keeps its label), BUSY clear runs `k` on the value. -/
def State.poll (k : Word → State → State) (s : State) : State :=
  s.readRegister s.params.e2pCmd
    (fun v t => if busyBit v then t.setLastCmd v else k v (t.setLastCmd v))

/-- One transaction of phase 1 of `submitCommand(cmd, addr)` (R122). -/
def State.issue1 (c : Cmd) (addr : Byte) (s : State) : State :=
  s.writeRegister s.params.e2pCmd (cmdWord false c addr) (State.setCmdst .issue2)

/-- One transaction of phase 2 of `submitCommand(cmd, addr)`, then `k` (R122). -/
def State.issue2 (c : Cmd) (addr : Byte) (k : State → State) (s : State) : State :=
  s.writeRegister s.params.e2pCmd (cmdWord true c addr) k

/-- One transaction of `checkTimeout()` and of what `enableWrite` does with it (R124, R142): the separate
read, LAST_CMD and TO, and the fatal halt when bit 9 is set. -/
def State.checkTimeout (k : Word → State → State) (s : State) : State :=
  s.readRegister s.params.e2pCmd
    (fun v t =>
      if timeoutBit v then
        (((t.setLastCmd v).setTo true).setRes v).finish .fatalTimeout
      else k v ((t.setLastCmd v).setTo false))

/-! ## Cell operations (42_cell_operations.md, R125, R172) -/

/-- The four cell-level operations. -/
inductive CellOp where
  | read | unlock | write | lock
deriving DecidableEq, Repr

/-- The command a cell operation submits (R140, R142, R144, R146). -/
def CellOp.cmd : CellOp → Cmd
  | .read => .read | .unlock => .ewen | .write => .write | .lock => .ewds

/-- The start of a cell operation, before its first transaction (first line of R140, R142, R144, R146, and
`waitIdle(C_PREWAIT)`). -/
def State.startCell (op : CellOp) (c : CellIx) (s : State) : State :=
  ((s.setCell c).setCurCmd op.cmd).setCmdst .prewait

/-- Where the pre-wait leads (R172): the data write in `writeCell`, else phase 1. -/
def CellOp.afterPrewait : CellOp → CmdSt
  | .write => .data
  | .read => .issue1
  | .unlock => .issue1
  | .lock => .issue1

/-- What follows the post-wait whose last poll read `v` (R172): the data read, the timeout check, or the end
`k` of the operation. -/
def CellOp.afterBusy (op : CellOp) (k : Word → State → State) (v : Word) (t : State) : State :=
  match op with
  | .read => t.setCmdst .read
  | .unlock => t.setCmdst .check
  | .write => k v t
  | .lock => k v t

/-- The next transaction of a cell operation, at the point CMDST and HALF name (R172); `k` is what follows
the operation's end, given the value its last read returned. -/
def State.cellStep (op : CellOp) (k : Word → State → State) (s : State) : Result :=
  match s.cmdst with
  | .prewait => .next (s.poll (fun _ => State.setCmdst op.afterPrewait))
  | .data =>
    if op = .write then
      .next (s.writeRegister s.params.e2pData (dataWord s.curData)
        (State.setCmdst .issue1))
    else .fault .noSuchPoint
  | .issue1 => .next (s.issue1 op.cmd (cellAddr s.cell))
  | .issue2 => .next (s.issue2 op.cmd (cellAddr s.cell) (State.setCmdst .busy))
  | .busy => .next (s.poll (op.afterBusy k))
  | .check => if op = .unlock then .next (s.checkTimeout k) else .fault .noSuchPoint
  | .read =>
    if op = .read then .next (s.readRegister s.params.e2pData k) else .fault .noSuchPoint
  | .idle => .fault .noSuchPoint
  | .complete => .fault .noSuchPoint
  | .timeout => .fault .noSuchPoint
  | .xfer => .fault .noSuchPoint

end Sys2Proof.Machine
end

