-- ==== Sys2Proof/Machine/Cells.lean ====
section
/-! DEFINITION. The cell requests (42_cell_operations.md): READ_CELL, ENABLE_WRITE, WRITE_CELL,
DISABLE_WRITE. -/

namespace Sys2Proof.Machine

/-- A single cell request's start, or BAD_ARG for an ADDR out of range. -/
def startSingleCell (op : CellOp) (rejected : Bool) (c : CellIx) (s : State) : State :=
  if rejected then s.finish .badArg else (s.setSeqst .single).startCell op c

/-- A single cell request's transaction. -/
def singleCellStep (op : CellOp) (k : Word → State → State) (s : State) : Result :=
  if s.seqst = .single then s.cellStep op k else .fault .noSuchPoint

/-- READ_CELL (R141). -/
def execReadCell (addr : BitVec 8) (s : State) : Result :=
  s.runRequest (.readCell addr) .hc
    (fun t => startSingleCell .read (readCellRejected t.curAddr) (cellOfAddr t.curAddr) t)
    (singleCellStep .read (fun d t => t.finishOk (dataWord (dataByte d))))

/-- ENABLE_WRITE (R143): `RES` takes the check's value, on OK and on FATAL_TIMEOUT (R142). -/
def execEnableWrite (s : State) : Result :=
  s.runRequest .enableWrite .hn
    (startSingleCell .unlock false 0)
    (singleCellStep .unlock (fun v t => t.finishOk v))

/-- WRITE_CELL (R145). `CUR_DATA` holds the byte since acceptance. -/
def execWriteCell (addr data : BitVec 8) (s : State) : Result :=
  s.runRequest (.writeCell addr data) .hc
    (fun t => startSingleCell .write (writeCellRejected t.curAddr) (cellOfAddr t.curAddr) t)
    (singleCellStep .write (fun _ t => t.finishOk 0))

/-- DISABLE_WRITE (R147). -/
def execDisableWrite (s : State) : Result :=
  s.runRequest .disableWrite .hn
    (startSingleCell .lock false 0)
    (singleCellStep .lock (fun _ t => t.finishOk 0))

end Sys2Proof.Machine
end

