-- ==== Sys2Proof/Machine/CommandWords.lean ====
section
/-! DEFINITION. The words of the device port: the eight command words of E2P_CMD (30_encoding.md R70, R71, R73)
and the indirect word of MAC_CSR_CMD (R76). Each goes out as one `writeRegister` (R100, R122, R103), low
half first, and the device takes it from there: a command starts when BUSY goes from 0 to 1 (R60). On the
live device nothing more is known (R8, R56); on the reference device RD4 to RD6 and RD10 say what
it does. EPB registers are not touched: the word stands outside any request (log entry 8). -/

namespace Sys2Proof.Machine

/-- E2P_READ (R71): read one cell into the data register. -/
def execE2pRead (f : CmdFields) (s : State) : Result :=
  .next (s.writeWord s.params.e2pCmd (cmdWordOf .read f))

/-- E2P_EWDS (R71): disable write access, re-lock the array. -/
def execE2pEwds (f : CmdFields) (s : State) : Result :=
  .next (s.writeWord s.params.e2pCmd (cmdWordOf .ewds f))

/-- E2P_EWEN (R71): enable write access, unlock. -/
def execE2pEwen (f : CmdFields) (s : State) : Result :=
  .next (s.writeWord s.params.e2pCmd (cmdWordOf .ewen f))

/-- E2P_WRITE (R71): write the data register's byte to one cell. -/
def execE2pWrite (f : CmdFields) (s : State) : Result :=
  .next (s.writeWord s.params.e2pCmd (cmdWordOf .write f))

/-- E2P_WRAL (R71): no effect given; the device's state afterwards is any value (U8). -/
def execE2pWral (f : CmdFields) (s : State) : Result :=
  .next (s.writeWord s.params.e2pCmd (cmdWordOf .wral f))

/-- E2P_ERASE (R71): no effect given; the device's state afterwards is any value (U8). -/
def execE2pErase (f : CmdFields) (s : State) : Result :=
  .next (s.writeWord s.params.e2pCmd (cmdWordOf .erase f))

/-- E2P_ERAL (R71): no effect given; the device's state afterwards is any value (U8). -/
def execE2pEral (f : CmdFields) (s : State) : Result :=
  .next (s.writeWord s.params.e2pCmd (cmdWordOf .eral f))

/-- E2P_RELOAD (R71): no effect given; the device's state afterwards is any value (U8). -/
def execE2pReload (f : CmdFields) (s : State) : Result :=
  .next (s.writeWord s.params.e2pCmd (cmdWordOf .reload f))

/-- MAC_CSR_READ_SHADOW (R76): the indirect word `0xC0000000 + index` to MAC_CSR_CMD. -/
def execMacCsrReadShadow (index : BitVec 1) (s : State) : Result :=
  .next (s.writeWord s.params.macCsrCmd (macShadowWord index))

end Sys2Proof.Machine
end

