-- ==== Sys2Proof/Machine/Protocol.lean ====
section
/-! DEFINITION. The requests that expose the protocol primitives (41_protocol_primitives.md): WAIT_IDLE and
SUBMIT. -/

namespace Sys2Proof.Machine

/-- WAIT_IDLE (R126): poll with the label C_BUSY, then `RES <- v`. -/
def execWaitIdle (s : State) : Result :=
  s.runRequest .waitIdle .hn
    (fun t => ((t.setSeqst .single).setCell 0).setCmdst .busy)
    (fun t =>
      if t.seqst = .single ∧ t.cmdst = .busy then .next (t.poll (fun v u => u.finishOk v))
      else .fault .noSuchPoint)

/-- SUBMIT (R127): the two-phase submission with no wait. -/
def execSubmit (cmd : Cmd) (addr : BitVec 8) (s : State) : Result :=
  s.runRequest (.submit cmd addr) .hs
    (fun t => ((t.setSeqst .single).setCell 0).setCmdst .issue1)
    (fun t =>
      if t.seqst = .single ∧ t.cmdst = .issue1 then .next (t.issue1 t.curCmd t.curAddr)
      else if t.seqst = .single ∧ t.cmdst = .issue2 then
        .next (t.issue2 t.curCmd t.curAddr (fun u => u.finishOk 0))
      else .fault .noSuchPoint)

end Sys2Proof.Machine
end

