-- ==== Sys2Proof/Machine/Sequencer.lean ====
section
/-! DEFINITION. The read-modify-write sequencer (43_sequencer.md): DUMP and PROGRAM_ADDRESS. -/

namespace Sys2Proof.Machine

/-- A sequencer step on a cell: `CUR_ADDR` holds the cell (R28; DEDUCED, log entry 9). -/
def State.startSeqCell (op : CellOp) (c : CellIx) (s : State) : State :=
  (s.setCurAddr (cellAddr c)).startCell op c

/-- A sequencer write of byte `b` to cell `c`: `CUR_DATA <- b` (R144). -/
def State.startSeqWrite (c : CellIx) (b : Byte) (s : State) : State :=
  (s.setCurData b).startSeqCell .write c

/-- What follows `readCell(CELL)` in `dump(IMG)` (R160): the image's cell, then the next cell, or `k` after
cell 31. -/
def dumpNext (setImg : CellIx → Byte → State → State) (k : State → State) (d : Word)
    (t : State) : State :=
  if t.cell = 31 then k (setImg t.cell (dataByte d) t)
  else (setImg t.cell (dataByte d) t).startSeqCell .read (t.cell + 1)

/-- DUMP (R161). -/
def execDump (s : State) : Result :=
  s.runRequest .dump .hn
    (fun t => (t.setSeqst .dumpPre).startSeqCell .read 0)
    (fun t =>
      if t.seqst = .dumpPre then t.cellStep .read (dumpNext State.setPre (fun u => u.finishOk 0))
      else .fault .noSuchPoint)

/-- What follows `writeCell(CELL, ...)` in step 3 (R162): `writeCell(j+1, A[j])` while cells remain, then
step 4. -/
def writeNext (t : State) : State :=
  if t.cell.toNat < 6 then t.startSeqWrite (t.cell + 1) (macByte t.curMac t.cell.toNat)
  else (t.setSeqst .lock).startCell .lock 0

/-- The transaction steps of `programAddress` (R162, R173). -/
def programStep (t : State) : Result :=
  match t.seqst with
  | .dumpPre => t.cellStep .read
      (dumpNext State.setPre (fun u => (u.setSeqst .unlock).startCell .unlock 0))
  | .unlock => t.cellStep .unlock
      (fun _ u => (u.setSeqst .write).startSeqWrite 0 Config.magic)
  | .write => t.cellStep .write (fun _ u => writeNext u)
  | .lock => t.cellStep .lock
      (fun _ u => (u.setSeqst .dumpPost).startSeqCell .read 0)
  | .dumpPost => t.cellStep .read (dumpNext State.setPost (fun u => u.finishOk 0))
  | .idle => .fault .noSuchPoint
  | .single => .fault .noSuchPoint
  | .halted => .fault .noSuchPoint

/-- PROGRAM_ADDRESS (R163). -/
def execProgramAddress (s : State) : Result :=
  s.runRequest .programAddress .hn
    (fun t => (t.setSeqst .dumpPre).startSeqCell .read 0)
    programStep

end Sys2Proof.Machine
end

