-- ==== Sys2Proof/Machine/Transport.lean ====
section
/-! DEFINITION. The requests of the Register Transport (40_transport.md): WRITE_REG, READ_REG,
READ_MAC_SHADOW. -/

namespace Sys2Proof.Machine

/-- `SEQST <- S_SINGLE; CMDST <- C_XFER` (R104, R105, R106), or BAD_ARG for an illegal offset. -/
def startTransfer (rejected : Bool) (s : State) : State :=
  if rejected then s.finish .badArg else (s.setSeqst .single).setCmdst .xfer

/-- The transaction of a transfer at `CUR_OFF`. -/
def atOffset (s : State) (t : State) : Result :=
  if offsetRejected s.curOff then .fault (.illegalOffset s.curOff)
  else if s.seqst = .single ∧ s.cmdst = .xfer then .next t else .fault .noSuchPoint

/-- WRITE_REG (R104). -/
def execWriteReg (off : BitVec 12) (s : State) : Result :=
  s.runRequest (.writeReg off) .hr
    (fun t => startTransfer (offsetRejected t.curOff) t)
    (fun t => atOffset t (t.writeRegister t.curOff t.curVal (fun u => u.finishOk 0)))

/-- READ_REG (R105). -/
def execReadReg (off : BitVec 12) (s : State) : Result :=
  s.runRequest (.readReg off) .hr
    (fun t => startTransfer (offsetRejected t.curOff) t)
    (fun t => atOffset t (t.readRegister t.curOff (fun v u => u.finishOk v)))

/-- The next transaction of `readMacShadowRegister(i)` (R103): the indirect word to MAC_CSR_CMD, then the read
of MAC_CSR_DATA, with no wait between them. -/
def State.macShadowStep (s : State) : State :=
  if s.macReading then s.readRegister s.params.macCsrData (fun v u => u.finishOk v)
  else s.writeRegister s.params.macCsrCmd (macShadowWord s.curIdx)
    (State.setMacReading true)

/-- READ_MAC_SHADOW (R106). -/
def execReadMacShadow (idx : BitVec 1) (s : State) : Result :=
  s.runRequest (.readMacShadow idx) .hm
    (startTransfer false)
    (fun t =>
      if t.seqst = .single ∧ t.cmdst = .xfer then .next t.macShadowStep else .fault .noSuchPoint)

end Sys2Proof.Machine
end

