-- ==== Sys2Proof/Machine/Dispatch.lean ====
section
/-! DEFINITION. One arm for each row of spec/opcode_table.json. -/

namespace Sys2Proof.Machine

def exec (i : Instr) (s : State) : Host.Outcome State Fault Refusal :=
  match i with
  | .writeReg off => Sys2Proof.Machine.execWriteReg off s
  | .readReg off => Sys2Proof.Machine.execReadReg off s
  | .readMacShadow idx => Sys2Proof.Machine.execReadMacShadow idx s
  | .waitIdle => Sys2Proof.Machine.execWaitIdle s
  | .submit cmd addr => Sys2Proof.Machine.execSubmit cmd addr s
  | .readCell addr => Sys2Proof.Machine.execReadCell addr s
  | .enableWrite => Sys2Proof.Machine.execEnableWrite s
  | .writeCell addr data => Sys2Proof.Machine.execWriteCell addr data s
  | .disableWrite => Sys2Proof.Machine.execDisableWrite s
  | .dump => Sys2Proof.Machine.execDump s
  | .programAddress => Sys2Proof.Machine.execProgramAddress s
  | .e2pRead f => Sys2Proof.Machine.execE2pRead f s
  | .e2pEwds f => Sys2Proof.Machine.execE2pEwds f s
  | .e2pEwen f => Sys2Proof.Machine.execE2pEwen f s
  | .e2pWrite f => Sys2Proof.Machine.execE2pWrite f s
  | .e2pWral f => Sys2Proof.Machine.execE2pWral f s
  | .e2pErase f => Sys2Proof.Machine.execE2pErase f s
  | .e2pEral f => Sys2Proof.Machine.execE2pEral f s
  | .e2pReload f => Sys2Proof.Machine.execE2pReload f s
  | .macCsrReadShadow index => Sys2Proof.Machine.execMacCsrReadShadow index s

end Sys2Proof.Machine
end

