-- ==== Sys2Proof/Machine/Fetch.lean ====
section
/-! DEFINITION. Where the next step's instruction comes from (43_sequencer.md R174): the head of the pending
inputs, or the request in progress. -/

namespace Sys2Proof.Machine

/-- What the next step does. -/
inductive Fetched where
  | instr (i : Instr) (s : State) -- execute `i` at `s`
  | settled (s : State)           -- a host action, or no step: the next state is `s`
  | stopped (f : Fault)           -- no request where one must be
deriving DecidableEq, Repr

/-- The EPB's own next step: the request in progress, which REQ holds (R21); in S_IDLE and S_HALTED there is
none, and every register keeps its value (R174, R193, R206). -/
def State.fetchRunning (s : State) : Fetched :=
  if s.ready || s.halted then .settled s
  else
    match decodeReq s.req with
    | .ok i => .instr i s
    | .error _ => .stopped .noRequest

/-- A host write of `q` to REQ (R168): discarded unless READY = 1 (R21); BAD_OP or BAD_ARG where the word is
no request (R191, R192); else the acceptance of the request. -/
def State.fetchRequest (q : Word) (s : State) : Fetched :=
  if s.ready then
    match decodeReq q with
    | .ok i => .instr i s
    | .error .badOp => .settled (s.rejectRequest q .badOp)
    | .error _ => .settled (s.rejectRequest q .badArg)
  else .settled s

/-- The next step. With no pending input the EPB runs on its own. -/
def State.fetch (s : State) : Fetched :=
  match s.inputs with
  | [] => s.fetchRunning
  | .tick :: rest => State.fetchRunning { s with inputs := rest }
  | .poll :: rest =>
    if s.ready || s.halted then .settled { s with inputs := rest } else s.fetchRunning
  | .writeReq q :: rest => State.fetchRequest q { s with inputs := rest }
  | .writeArgVal v :: rest => .settled { s with inputs := rest, argVal := v }
  | .writeArgMac j b :: rest =>
    .settled { s with inputs := rest, argMac := s.argMac.set j.val b j.isLt }
  | .reset :: rest => .settled (State.resetEvent { s with inputs := rest })
  | .command w :: rest => .instr (decodeCommand w) { s with inputs := rest }
  | .indirect index :: rest => .instr (.macCsrReadShadow index) { s with inputs := rest }

/-- The input that brings an opcode-table word to the machine in the space it is read in. -/
def tableInput (w : Word) : Input :=
  match tableSpace w with
  | .request => .writeReq w
  | .macCsrCmd => .indirect (w.extractLsb' 0 1)
  | .e2pCmd => .command w

end Sys2Proof.Machine
end

