-- ==== Sys2Proof/Machine/Step.lean ====
section
/-! DEFINITION. One step of the machine (43_sequencer.md R174), and the placing of one opcode-table word. -/

namespace Sys2Proof.Machine

/-- One step: a host action, an acceptance step, or a transaction step. -/
def step (s : State) : Host.Outcome State Fault Refusal :=
  match s.fetch with
  | .instr i t => exec i t
  | .settled t => .next t
  | .stopped f => .fault f

/-- `s` with the table word `w` as the very next thing the machine takes. READY is set and HALTED cleared,
or a request would be discarded (R21, R193). Log entry 7. -/
def State.withFetchWord (s : State) (nbits w : Nat) : State :=
  { s with
    ready := true, halted := false
    inputs := tableInput (BitVec.ofNat 32 (w % 2 ^ nbits)) :: s.inputs }

end Sys2Proof.Machine
end

