-- ==== Sys2Proof/Machine/HostPort.lean ====
section
/-! DEFINITION. What the host reads (10_state.md R20), and what it makes of it (00_scope.md R13, R16, R18). Host reads
have no effect on the EPB, so they are functions of the state and no step. -/

namespace Sys2Proof.Machine

/-- The host-port registers (R20), named and without addresses. -/
inductive HostReg where
  | req | argVal | argMac (j : Fin 6) | status | res | lastCmd | preImg (i : Fin 32)
  | postImg (i : Fin 32)
deriving DecidableEq, Repr

/-- A register's width (R20). -/
def HostReg.width : HostReg → Nat
  | .req => 32 | .argVal => 32 | .argMac _ => 8 | .status => 32 | .res => 32 | .lastCmd => 32
  | .preImg _ => 8 | .postImg _ => 8

/-- A host read; a read of REQ returns the last accepted word (R20). -/
def State.hostRead (s : State) : (r : HostReg) → BitVec r.width
  | .req => s.req
  | .argVal => s.argVal
  | .argMac j => s.argMac[j]
  | .status => s.status
  | .res => s.res
  | .lastCmd => s.lastCmd
  | .preImg i => s.preImg[i]
  | .postImg i => s.postImg[i]

/-- The host's address fixup for a random address (R16): byte 0 becomes `(A[0] & 0xFE) | 0x02`. -/
def fixupAddress (a : Vector Byte 6) : Vector Byte 6 := a.set 0 ((a[0] &&& 0xFE) ||| 0x02)

/-- The host's exit code (R18): 0 for OK after PROGRAM_ADDRESS, 1 for FATAL_TIMEOUT; R18 maps no other
outcome. -/
def exitCode : OutcomeCode → Option Nat
  | .ok => some 0
  | .fatalTimeout => some 1
  | .none => none
  | .badOp => none
  | .badArg => none

/-- What a run shows (R13): the bus trace and the host-visible registers. -/
structure Observation where
  trace   : List BusEvent
  req     : Word
  argVal  : Word
  argMac  : Vector Byte 6
  status  : Word
  res     : Word
  lastCmd : Word
  preImg  : Vector Byte 32
  postImg : Vector Byte 32
deriving DecidableEq, Repr

/-- The observation of a state. -/
def State.observe (s : State) : Observation :=
  { trace := s.trace, req := s.req, argVal := s.argVal, argMac := s.argMac, status := s.status
    res := s.res, lastCmd := s.lastCmd, preImg := s.preImg, postImg := s.postImg }

end Sys2Proof.Machine
end

