-- ==== Sys2Proof/Machine/Assembler.lean ====
section
/-! DEFINITION. Host programs (30_encoding.md R82, R83), as abstract lines: the requests, the three directives and
the pseudo-instructions, and the inputs a program stands for. -/

namespace Sys2Proof.Machine

/-- One line of a host program. -/
inductive Line where
  | request (i : Instr)                         -- a request line, an implicit `poll` before it (R82)
  | setArgVal (v : Word)                        -- set ARG_VAL, v
  | setArgMac (a : Vector Byte 6)               -- set ARG_MAC, xx:xx:xx:xx:xx:xx
  | poll
  | writeReg32 (off : BitVec 12) (v : Word)     -- write_reg32 off, v (R83)
  | programMac (a : Vector Byte 6)              -- program_mac a (R83)
  | programRandom (r : Vector Byte 6)           -- program_random r0,...,r5 (R83, R16, R17)
  | cmd (c : Cmd) (addr : BitVec 8)             -- cmd CMD, addr (R83)
deriving DecidableEq, Repr

/-- A pseudo-instruction's expansion into requests and directives (R83). -/
def Line.expand : Line → List Line
  | .writeReg32 off v => [.setArgVal v, .request (.writeReg off)]
  | .programMac a => [.setArgMac a, .request .programAddress]
  | .programRandom r => [.setArgMac (fixupAddress r), .request .programAddress]
  | .cmd c addr => [.request .waitIdle, .request (.submit c addr), .request .waitIdle]
  | l => [l]

/-- The six host writes of ARG_MAC, the first pair to ARG_MAC[0] (R82). -/
def argMacInputs (a : Vector Byte 6) : List Input :=
  [.writeArgMac 0 a[0], .writeArgMac 1 a[1], .writeArgMac 2 a[2], .writeArgMac 3 a[3],
   .writeArgMac 4 a[4], .writeArgMac 5 a[5]]

/-- The host actions of an expanded line. -/
def Line.basicInputs : Line → List Input
  | .request i => [.poll, .writeReq (encode i)]
  | .setArgVal v => [.writeArgVal v]
  | .setArgMac a => argMacInputs a
  | .poll => [.poll]
  | .writeReg32 _ _ => []
  | .programMac _ => []
  | .programRandom _ => []
  | .cmd _ _ => []

/-- The host actions of a program. -/
def assemble (p : List Line) : List Input :=
  (p.flatMap Line.expand).flatMap Line.basicInputs

/-- The source tool's own order (70_reset_and_hazards.md R215): report the shadow registers, then program
the address. A host need not follow it. -/
def sourceToolProgram (a : Vector Byte 6) : List Line :=
  [.request (.readMacShadow 0), .request (.readMacShadow 1), .programMac a, .poll]

end Sys2Proof.Machine
end

