-- ==== Sys2Proof/Machine/Runs.lean ====
section
/-! DEFINITION. The terms in which claims speak of whole operations: what a live device answers in the course of an
operation (20_memory.md R56), and the bus trace the operation's pseudocode issues against those answers
(41_protocol_primitives.md, 42_cell_operations.md, 43_sequencer.md). Nothing here is used by a step. -/

namespace Sys2Proof.Machine

/-! ## Logical reads, polls and waits -/

/-- The two half-words the device answers to one logical read (R101). -/
structure ReadPair where
  lo : Half
  hi : Half
deriving DecidableEq, Repr

/-- The joined value (R101). -/
def ReadPair.value (r : ReadPair) : Word := joinHalves r.hi r.lo

/-- The answers in the order they are read. -/
def ReadPair.answers (r : ReadPair) : List Half := [r.lo, r.hi]

/-- The events of `readRegister(o)` (R101). -/
def ReadPair.events (o : Offset) (r : ReadPair) : List BusEvent :=
  [.read o r.lo, .read (o + 2) r.hi]

/-- One `waitIdle` that ends: the iterations that saw BUSY, then the one that did not (R120, R121). -/
structure Wait where
  busy : List ReadPair
  last : ReadPair
deriving DecidableEq, Repr

/-- The iterations of a wait. -/
def Wait.polls (w : Wait) : List ReadPair := w.busy ++ [w.last]

/-- The wait ends at its last iteration and not before. -/
def Wait.ok (w : Wait) : Bool := w.busy.all (fun r => r.hi.getLsbD 15) && !w.last.hi.getLsbD 15

def Wait.answers (w : Wait) : List Half := w.polls.flatMap ReadPair.answers

/-- The events of a wait (R120). -/
def Wait.events (p : Params) (w : Wait) : List BusEvent :=
  w.polls.flatMap (ReadPair.events p.e2pCmd)

/-- The number of iterations, at least 1 (R121). -/
def Wait.count (w : Wait) : Nat := w.busy.length + 1

/-- The live device (R56) that will answer the given values next. -/
def liveDevice (answers : List Half) (draws : Nat) : Device := { ref := none, answers, draws }

/-- The value a command-register read joins at its high half (R120, R124). -/
abbrev State.cmdValue (s : State) : Word :=
  joinHalves (s.readValue (s.params.e2pCmd + 2)) s.latchLo

/-- The value a data-register read joins at its high half (R140). -/
abbrev State.dataValue (s : State) : Word :=
  joinHalves (s.readValue (s.params.e2pData + 2)) s.latchLo

/-! ## Register writes and submissions -/

/-- The events of `writeRegister(o, v)` (R100). -/
def writeEvents (o : Offset) (v : Word) : List BusEvent :=
  [.write o (loHalf v), .write (o + 2) (hiHalf v)]

/-- The four events of `submitCommand(cmd, addr)` (R122). -/
def submitEvents (p : Params) (c : Cmd) (a : Byte) : List BusEvent :=
  writeEvents p.e2pCmd (cmdWord false c a) ++ writeEvents p.e2pCmd (cmdWord true c a)

/-! ## One cell operation -/

/-- What the device answers in one cell operation: the pre-wait, the post-wait, and the tail read (of E2P_DATA in
`readCell`, of E2P_CMD in `enableWrite`; unused in the other two). -/
structure CellRun where
  pre  : Wait
  post : Wait
  tail : ReadPair
deriving DecidableEq, Repr

def CellRun.ok (r : CellRun) : Bool := r.pre.ok && r.post.ok

/-- Whether the operation has a tail read (R125). -/
def CellOp.hasTail : CellOp → Bool
  | .read => true | .unlock => true | .write => false | .lock => false

/-- The register of the tail read (R140, R142). -/
def CellOp.tailOff (p : Params) : CellOp → Offset
  | .read => p.e2pData | .unlock => p.e2pCmd | .write => p.e2pCmd | .lock => p.e2pCmd

def CellRun.answers (op : CellOp) (r : CellRun) : List Half :=
  r.pre.answers ++ r.post.answers ++ (if op.hasTail then r.tail.answers else [])

/-- The bus trace of a cell operation on cell `c`, writing byte `b` in `writeCell` (R125, R140, R142, R144,
R146). -/
def CellRun.events (p : Params) (op : CellOp) (c : CellIx) (b : Byte) (r : CellRun) :
    List BusEvent :=
  r.pre.events p ++ (if op = .write then writeEvents p.e2pData (dataWord b) else []) ++
    submitEvents p op.cmd (cellAddr c) ++ r.post.events p ++
    (if op.hasTail then r.tail.events (op.tailOff p) else [])

/-- The number of transactions of a cell operation: 2·k1 + 4 + 2·k2, and two more for a data write or a tail
read. -/
def CellRun.transactions (op : CellOp) (r : CellRun) : Nat :=
  2 * r.pre.count + 4 + 2 * r.post.count +
    (if op = .write then 2 else 0) + (if op.hasTail then 2 else 0)

/-- The poll iterations of a cell operation. -/
def CellRun.polls (r : CellRun) : Nat := r.pre.count + r.post.count

/-- The LAST_CMD value a cell operation leaves (R26): the check's in `enableWrite`, else the last poll's. -/
def CellRun.lastCmd (op : CellOp) (r : CellRun) : Word :=
  if op = .unlock then r.tail.value else r.post.last.value

/-- The byte a `readCell` returns (R140). -/
def CellRun.byte (r : CellRun) : Byte := dataByte r.tail.value

/-! ## A dump -/

/-- The bus trace of `dump` from cell `c` on (R160), one run for each cell. -/
def dumpEvents (p : Params) : Nat → List CellRun → List BusEvent
  | _, [] => []
  | c, r :: rs => r.events p .read (BitVec.ofNat 5 c) 0 ++ dumpEvents p (c + 1) rs

def dumpAnswers (rs : List CellRun) : List Half := rs.flatMap (CellRun.answers .read)

def runPolls (rs : List CellRun) : Nat := (rs.map CellRun.polls).sum

/-- The image a dump leaves. -/
def dumpImage (rs : List CellRun) : List Byte := rs.map CellRun.byte

/-! ## PROGRAM_ADDRESS -/

/-- What the device answers in the course of one PROGRAM_ADDRESS that is not reset. -/
structure ProgramRun where
  pre    : List CellRun   -- step 1, one for each cell
  unlock : CellRun        -- step 2
  writes : List CellRun   -- step 3, cells 0 to 6
  lock   : CellRun        -- step 4
  post   : List CellRun   -- step 5, one for each cell
deriving DecidableEq, Repr

/-- Every wait of the run ends, and the run has the cells of R162. -/
def ProgramRun.ok (r : ProgramRun) : Bool :=
  decide (r.pre.length = 32) && decide (r.writes.length = 7) && decide (r.post.length = 32) &&
    r.pre.all CellRun.ok && r.unlock.ok && r.writes.all CellRun.ok && r.lock.ok &&
    r.post.all CellRun.ok

/-- The unlock's check saw TIMEOUT (R142). -/
def ProgramRun.timedOut (r : ProgramRun) : Bool := r.unlock.tail.lo.getLsbD 9

/-- The bytes of the seven writes: the magic byte, then the address (R162). -/
def programBytes (m : Vector Byte 6) : List Byte := Config.magic :: m.toList

/-- The bus trace of step 3 from cell `c` on. -/
def writesEvents (p : Params) : Nat → List Byte → List CellRun → List BusEvent
  | c, b :: bs, r :: rs => r.events p .write (BitVec.ofNat 5 c) b ++ writesEvents p (c + 1) bs rs
  | _, _, _ => []

/-- The bus trace of steps 1 and 2 (R162). -/
def ProgramRun.eventsToUnlock (p : Params) (r : ProgramRun) : List BusEvent :=
  dumpEvents p 0 r.pre ++ r.unlock.events p .unlock 0 0

/-- The bus trace of all five steps (R162). -/
def ProgramRun.events (p : Params) (m : Vector Byte 6) (r : ProgramRun) : List BusEvent :=
  r.eventsToUnlock p ++ writesEvents p 0 (programBytes m) r.writes ++
    r.lock.events p .lock 0 0 ++ dumpEvents p 0 r.post

def ProgramRun.answersToUnlock (r : ProgramRun) : List Half :=
  dumpAnswers r.pre ++ r.unlock.answers .unlock

def ProgramRun.answers (r : ProgramRun) : List Half :=
  r.answersToUnlock ++ r.writes.flatMap (CellRun.answers .write) ++ r.lock.answers .lock ++
    dumpAnswers r.post

/-- The poll iterations of steps 1 and 2. -/
def ProgramRun.pollsToUnlock (r : ProgramRun) : Nat := runPolls r.pre + r.unlock.polls

/-- The poll iterations of all five steps: R166's P. -/
def ProgramRun.polls (r : ProgramRun) : Nat :=
  r.pollsToUnlock + runPolls r.writes + r.lock.polls + runPolls r.post

/-! ## What a bus trace submits -/

/-- The commands a bus trace submits, with their addresses: each high-half write of E2P_CMD that sets BUSY starts
the command whose ADDR the last low-half write gave (R70, R122, R123). `lo` is that low half. -/
def submitsFrom (p : Params) : Half → List BusEvent → List (Cmd × Byte)
  | _, [] => []
  | lo, .read _ _ :: es => submitsFrom p lo es
  | lo, .write o v :: es =>
    if o = p.e2pCmd then submitsFrom p v es
    else if o = p.e2pCmd + 2 ∧ v.getLsbD 15 = true then
      (Cmd.ofCode (v.extractLsb' 12 3), lo.extractLsb' 0 8) :: submitsFrom p lo es
    else submitsFrom p lo es

def submits (p : Params) (es : List BusEvent) : List (Cmd × Byte) := submitsFrom p 0 es

/-- The cell writes a bus trace submits: the address and the byte last written to E2P_DATA. -/
def cellWritesFrom (p : Params) : Half → Half → List BusEvent → List (Byte × Byte)
  | _, _, [] => []
  | lo, d, .read _ _ :: es => cellWritesFrom p lo d es
  | lo, d, .write o v :: es =>
    if o = p.e2pCmd then cellWritesFrom p v d es
    else if o = p.e2pData then cellWritesFrom p lo v es
    else if o = p.e2pCmd + 2 ∧ v.getLsbD 15 = true ∧ v.extractLsb' 12 3 = Cmd.write.code then
      (lo.extractLsb' 0 8, d.extractLsb' 0 8) :: cellWritesFrom p lo d es
    else cellWritesFrom p lo d es

def cellWrites (p : Params) (es : List BusEvent) : List (Byte × Byte) := cellWritesFrom p 0 0 es

/-- The offset of an event. -/
def BusEvent.off : BusEvent → Offset
  | .write o _ => o
  | .read o _ => o

/-- Whether an event is a write. -/
def BusEvent.isWrite : BusEvent → Bool
  | .write _ _ => true
  | .read _ _ => false

/-- The 32 READs of a dump, ADDR 0 to 31 (R164). -/
def dumpSubmits : List (Cmd × Byte) := (List.range 32).map (fun c => (.read, BitVec.ofNat 8 c))

/-- The commands of a PROGRAM_ADDRESS that is not halted, in order (R164). -/
def programSubmits : List (Cmd × Byte) :=
  dumpSubmits ++ [(.ewen, 0)] ++ (List.range 7).map (fun c => (.write, BitVec.ofNat 8 c)) ++
    [(.ewds, 0)] ++ dumpSubmits

/-- The seven cell writes of a PROGRAM_ADDRESS (R164): 0xA5 to cell 0, `A[j]` to cell j+1. -/
def programCellWrites (m : Vector Byte 6) : List (Byte × Byte) :=
  [(0, 0xA5), (1, m[0]), (2, m[1]), (3, m[2]), (4, m[3]), (5, m[4]), (6, m[5])]

end Sys2Proof.Machine
end

