-- ==== Sys2Proof/Safety.lean ====
section
/-! DEFINITION. What a legal state of the machine is (the invariant the statements name) and what a safe run is. -/

namespace Sys2Proof.Machine

/-- `i` is the request in progress: REQ holds it and the EPB is neither ready nor halted (R21, R24). -/
def State.running (i : Instr) (s : State) : Prop :=
  s.ready = false ∧ s.halted = false ∧ s.req = encode i

/-- The CMDST values a cell operation passes through (R172). -/
def CellOp.hasPoint (op : CellOp) : CmdSt → Bool
  | .prewait => true
  | .data => decide (op = .write)
  | .issue1 => true
  | .issue2 => true
  | .busy => true
  | .check => decide (op = .unlock)
  | .read => decide (op = .read)
  | .idle => false
  | .complete => false
  | .timeout => false
  | .xfer => false

/-- The program points of step 3 of PROGRAM_ADDRESS: cell j is written with the byte R162 gives it. -/
def programByte (m : Vector Byte 6) (c : CellIx) : Byte :=
  if c = 0 then Config.magic else macByte m (c.toNat - 1)

/-- Where the request `i` can stand between two steps (R170, R172, R173), and what the internal registers hold
there (R28). -/
def State.pointOf (s : State) : Instr → Prop
  | .writeReg off => s.seqst = .single ∧ s.cmdst = .xfer ∧ s.cell = 0 ∧ s.curOff = off ∧
      s.macReading = false
  | .readReg off => s.seqst = .single ∧ s.cmdst = .xfer ∧ s.cell = 0 ∧ s.curOff = off ∧
      s.macReading = false
  | .readMacShadow idx => s.seqst = .single ∧ s.cmdst = .xfer ∧ s.cell = 0 ∧ s.curIdx = idx
  | .waitIdle => s.seqst = .single ∧ s.cmdst = .busy ∧ s.cell = 0 ∧ s.macReading = false
  | .submit cmd addr => s.seqst = .single ∧ (s.cmdst = .issue1 ∨ s.cmdst = .issue2) ∧ s.cell = 0 ∧
      s.curCmd = cmd ∧ s.curAddr = addr ∧ s.macReading = false
  | .readCell addr => s.seqst = .single ∧ CellOp.read.hasPoint s.cmdst = true ∧
      cellAddr s.cell = addr ∧ s.curAddr = addr ∧ s.curCmd = .read ∧ s.macReading = false
  | .enableWrite => s.seqst = .single ∧ CellOp.unlock.hasPoint s.cmdst = true ∧ s.cell = 0 ∧
      s.curCmd = .ewen ∧ s.macReading = false
  | .writeCell addr data => s.seqst = .single ∧ CellOp.write.hasPoint s.cmdst = true ∧
      cellAddr s.cell = addr ∧ s.curAddr = addr ∧ s.curData = data ∧ s.curCmd = .write ∧
      s.macReading = false
  | .disableWrite => s.seqst = .single ∧ CellOp.lock.hasPoint s.cmdst = true ∧ s.cell = 0 ∧
      s.curCmd = .ewds ∧ s.macReading = false
  | .dump => s.seqst = .dumpPre ∧ CellOp.read.hasPoint s.cmdst = true ∧
      s.curAddr = cellAddr s.cell ∧ s.curCmd = .read ∧ s.macReading = false
  | .programAddress => s.macReading = false ∧
      ((s.seqst = .dumpPre ∨ s.seqst = .dumpPost) ∧ CellOp.read.hasPoint s.cmdst = true ∧
          s.curAddr = cellAddr s.cell ∧ s.curCmd = .read ∨
        s.seqst = .unlock ∧ CellOp.unlock.hasPoint s.cmdst = true ∧ s.cell = 0 ∧
          s.curCmd = .ewen ∨
        s.seqst = .write ∧ CellOp.write.hasPoint s.cmdst = true ∧ s.cell.toNat ≤ 6 ∧
          s.curAddr = cellAddr s.cell ∧ s.curData = programByte s.curMac s.cell ∧
          s.curCmd = .write ∨
        s.seqst = .lock ∧ CellOp.lock.hasPoint s.cmdst = true ∧ s.cell = 0 ∧ s.curCmd = .ewds)
  | .e2pRead _ => False
  | .e2pEwds _ => False
  | .e2pEwen _ => False
  | .e2pWrite _ => False
  | .e2pWral _ => False
  | .e2pErase _ => False
  | .e2pEral _ => False
  | .e2pReload _ => False
  | .macCsrReadShadow _ => False

/-- Between requests nothing is in progress (R24, R169): OPST, CELL and HALF are 0. -/
def State.atRest (s : State) : Prop :=
  s.opst = 0 ∧ s.cell = 0 ∧ s.half = false ∧ s.macReading = false

/-- In S_IDLE, CMDST says how the last request ended (R169, R170). -/
def State.idleOk (s : State) : Prop :=
  s.atRest ∧ (s.cmdst = .complete ∧ s.outcome = .ok ∨
    s.cmdst = .idle ∧ (s.outcome = .none ∨ s.outcome = .badOp ∨ s.outcome = .badArg))

/-- In S_HALTED, the records of R193 and R195. -/
def State.haltedOk (s : State) : Prop :=
  s.atRest ∧ s.cmdst = .timeout ∧ s.outcome = .fatalTimeout ∧ s.toSeen = true ∧
    timeoutBit s.res = true ∧ s.lastCmd = s.res

/-- While a request is in progress: REQ decodes to a legal request, CUR_OP and OPST name it (R24, R168), and the
program point is one of its own. -/
def State.runningOk (s : State) : Prop :=
  s.curOp = reqOp s.req ∧ s.opst = reqOp s.req ∧
    ∃ i, decodeReq s.req = .ok i ∧ i.wellFormed = true ∧ s.pointOf i

/-- The state invariant: legal parameters (R10), the window in its canonical form, READY and HALTED as R24 says,
and a legal program point (R30, R170). -/
structure State.Inv (s : State) : Prop where
  params  : s.params.valid = true
  window  : Memory.wf s.window = true
  ready   : s.ready = true ↔ s.seqst = .idle
  halted  : s.halted = true ↔ s.seqst = .halted
  idle    : s.seqst = .idle → s.idleOk
  halt    : s.seqst = .halted → s.haltedOk
  running : s.seqst ≠ .idle → s.seqst ≠ .halted → s.runningOk

/-- A step that does not stop. -/
def State.Safe (s : State) : Prop := ∃ t, step s = .next t

/-! ## How an operation leaves the machine (R169), and what it leaves alone -/

/-- `finish(OK)` has run (R169). -/
def State.isOk (t : State) : Prop :=
  t.outcome = .ok ∧ t.opst = 0 ∧ t.cell = 0 ∧ t.half = false ∧ t.seqst = .idle ∧
    t.cmdst = .complete ∧ t.ready = true ∧ t.halted = false

/-- `finish(FATAL_TIMEOUT)` has run (R169, R193). -/
def State.isHalted (t : State) : Prop :=
  t.outcome = .fatalTimeout ∧ t.opst = 0 ∧ t.cell = 0 ∧ t.half = false ∧ t.seqst = .halted ∧
    t.cmdst = .timeout ∧ t.ready = false ∧ t.halted = true

/-- `finish(BAD_OP)` or `finish(BAD_ARG)` has run (R169, R191, R192). -/
def State.isRejected (c : OutcomeCode) (t : State) : Prop :=
  t.outcome = c ∧ t.opst = 0 ∧ t.cell = 0 ∧ t.half = false ∧ t.seqst = .idle ∧
    t.cmdst = .idle ∧ t.ready = true ∧ t.halted = false

/-- The host's own registers, the parameters and the pending inputs. -/
def State.sameHost (s t : State) : Prop :=
  t.argVal = s.argVal ∧ t.argMac = s.argMac ∧ t.params = s.params ∧ t.inputs = s.inputs

/-- The records a request may leave beside RES: LAST_CMD, the images and TO. -/
def State.sameRecords (s t : State) : Prop :=
  t.lastCmd = s.lastCmd ∧ t.preImg = s.preImg ∧ t.postImg = s.postImg ∧ t.toSeen = s.toSeen

/-- Nothing happened on the device port. -/
def State.samePort (s t : State) : Prop :=
  t.window = s.window ∧ t.device = s.device ∧ t.trace = s.trace

/-- The registers acceptance latches, which no transaction step writes (R78, R168); that a finish
keeps CUR_OP too is log entry 11. -/
def State.sameLatches (s t : State) : Prop :=
  t.req = s.req ∧ t.curOp = s.curOp ∧ t.curOff = s.curOff ∧ t.curIdx = s.curIdx ∧
    t.curVal = s.curVal ∧ t.curMac = s.curMac

/-- Every EPB register but the program point's: what an E2P_CMD or MAC_CSR_CMD word leaves alone too. -/
def State.sameRegisters (s t : State) : Prop :=
  s.sameLatches t ∧ s.sameRecords t ∧ s.sameHost t ∧ t.res = s.res ∧ t.outcome = s.outcome ∧
    t.opst = s.opst ∧ t.ready = s.ready ∧ t.halted = s.halted ∧ t.curCmd = s.curCmd ∧
    t.curAddr = s.curAddr ∧ t.curData = s.curData ∧ t.latchLo = s.latchLo

/-- The program point (R30). -/
def State.samePoint (s t : State) : Prop :=
  t.seqst = s.seqst ∧ t.cmdst = s.cmdst ∧ t.cell = s.cell ∧ t.half = s.half ∧
    t.macReading = s.macReading

/-- Every byte of the window outside the four bytes of the register at `o` reads as before. -/
def State.sameBytesBut (o : Offset) (s t : State) : Prop :=
  ∀ a : Nat, a ≠ o.toNat → a ≠ (o + 1).toNat → a ≠ (o + 2).toNat → a ≠ (o + 3).toNat →
    Memory.read t.window a = Memory.read s.window a

/-- A window location that behaves as memory in this state (R102): a read there returns what was last
written. -/
def State.memoryAt (o : Offset) (s : State) : Prop := s.readValue o = Memory.readHalf s.window o

/-- The actions that may stand pending in the course of an operation and leave it to itself: the host's own writes, which
R21 to R23 keep from the running request, and the schedule's `tick` and `poll`. A reset abandons the operation (R210), and a
word of the device port is another agent's (R65, log entry 8). -/
def Input.leavesOperation : Input → Bool
  | .writeReq _ => true
  | .writeArgVal _ => true
  | .writeArgMac _ _ => true
  | .tick => true
  | .poll => true
  | .reset => false
  | .command _ => false
  | .indirect _ => false

/-- `n` steps of the machine. -/
def run (n : Nat) (s : State) : Result := Sys2Proof.core.run n s

end Sys2Proof.Machine
end

