-- ==== Sys2Proof/Certificates/Slice0/Obligations.lean ====
section
/-! DEFINITION. The statements for the provers. -/

open Sys2Proof Sys2Proof.Machine

/-! ## Reset -/

/-- R37: the value of every EPB register after reset. -/
def Obligations.ResetValues : Prop :=
  State.reset.req = 0 ∧ State.reset.argVal = 0 ∧ (∀ j : Fin 6, State.reset.argMac[j] = 0) ∧
  State.reset.status = 0x00000001 ∧ State.reset.ready = true ∧ State.reset.halted = false ∧
  State.reset.outcome = .none ∧ State.reset.opst = 0 ∧ State.reset.seqst = .idle ∧
  State.reset.cmdst = .idle ∧ State.reset.cell = 0 ∧ State.reset.half = false ∧
  State.reset.toSeen = false ∧ State.reset.res = 0 ∧ State.reset.lastCmd = 0 ∧
  (∀ i : Fin 32, State.reset.preImg[i] = 0 ∧ State.reset.postImg[i] = 0) ∧
  State.reset.curOp = 0 ∧ State.reset.curOff = 0 ∧ State.reset.curIdx = 0 ∧
  State.reset.curCmd.code = 0 ∧ State.reset.curAddr = 0 ∧ State.reset.curData = 0 ∧
  State.reset.curVal = 0 ∧ (∀ j : Fin 6, State.reset.curMac[j] = 0) ∧ State.reset.latchLo = 0

/-- R210, R211: the reset event, in any state (halted, or in the middle of an operation): the EPB's registers take
their reset values, nothing happens on the device port, and the device and the parameters stay. That the
pending inputs and the trace stay is the model's choice (log entries 6 and 12). -/
def Obligations.ResetEventResetsOnlyTheEpb : Prop :=
  ∀ (s : State) (rest : List Input), s.inputs = .reset :: rest →
    step s = .next
      { State.reset with
        params := s.params, window := s.window, device := s.device, inputs := rest
        trace := s.trace }

/-! ## The invariant -/

/-- The invariant holds after power-on, whatever legal parameters the EPB has. -/
def Obligations.ResetHasInvariant : Prop := State.reset.Inv

/-- Every step keeps the invariant: legal program points, REQ and OPST naming the request in progress, READY and
HALTED as R24 says, the records of a fatal halt, and the window's
canonical form. That CUR_ADDR holds the cell of a sequencer step and that the position bit is clear outside
READ_MAC_SHADOW are the model's reading (log entries 9 and 10). -/
def Obligations.StepKeepsInvariant : Prop :=
  ∀ s t : State, s.Inv → step s = .next t → t.Inv

/-- From a state with the invariant the machine never stops: no fault and no refusal. -/
def Obligations.InvariantStatesNeverStop : Prop := ∀ s : State, s.Inv → s.Safe

/-! ## Encoding -/

/-- Decoding an encoded instruction, in the space of its words, gives it back: every row of the opcode table, every
operand. -/
def Obligations.DecodeOfEncode : Prop :=
  ∀ i : Instr, decodeIn i.space (encode i) = .ok i

/-- A word that decodes is the encoding of what it decodes to. -/
def Obligations.EncodeOfDecode : Prop :=
  ∀ (sp : Space) (w : Word) (i : Instr), decodeIn sp w = .ok i → i.space = sp ∧ encode i = w

/-- R80: a word is an operation's request exactly when it has the row's match under the row's mask, and then its
operands are the fields of R78. -/
def Obligations.RequestSelectedByMaskAndMatch : Prop :=
  ∀ (q : Word) (op : Op),
    (decodeReq q = .ok (op.instr q) ↔ q &&& op.mask = op.matchBits) ∧
    ∀ i, decodeReq q = .ok i → ∃ op' : Op, i = op'.instr q ∧ q &&& op'.mask = op'.matchBits

/-- R81: which requests are rejected, and by which name: BAD_OP for a reserved OP, BAD_ARG for reserved bits. -/
def Obligations.RejectedRequestWords : Prop :=
  ∀ q : Word,
    (decodeReq q = .error .badOp ↔ (reqOp q = 0 ∨ 0xC ≤ (reqOp q).toNat)) ∧
    (decodeReq q = .error .badArg ↔
      ∃ op : Op, reqOp q = op.code ∧ q &&& op.mask ≠ op.matchBits) ∧
    ∀ r, decodeReq q = .error r → r = .badOp ∨ r = .badArg

/-- R72, R73: the two command words of a submit, field by field and half by half. -/
def Obligations.CommandWordLayout : Prop :=
  ∀ (busy : Bool) (c : Cmd) (a : Byte),
    (cmdWord busy c a).getLsbD 31 = busy ∧
    (cmdWord busy c a).extractLsb' 28 3 = c.code ∧
    (cmdWord busy c a).extractLsb' 8 20 = 0 ∧
    (cmdWord busy c a).extractLsb' 0 8 = a ∧
    loHalf (cmdWord busy c a) = a.setWidth 16 ∧
    hiHalf (cmdWord false c a) = c.code.setWidth 16 <<< 12 ∧
    hiHalf (cmdWord true c a) = 0x8000 ||| c.code.setWidth 16 <<< 12 ∧
    cmdWord true c a ^^^ cmdWord false c a = 0x80000000

/-- A few words written out from the encodings of R77 and R82 decode as the requests they stand for. -/
def Obligations.WrittenOutWordsDecode : Prop :=
  decodeReq 0x11000000 = .ok (.writeReg 0x100) ∧ decodeReq 0x2FFC0000 = .ok (.readReg 0xFFC) ∧
  decodeReq 0x30010000 = .ok (.readMacShadow 1) ∧ decodeReq 0x40000000 = .ok .waitIdle ∧
  decodeReq 0x5003FF00 = .ok (.submit .write 0xFF) ∧ decodeReq 0x60001F00 = .ok (.readCell 31) ∧
  decodeReq 0x80000642 = .ok (.writeCell 6 0x42) ∧ decodeReq 0xB0000000 = .ok .programAddress ∧
  decodeCommand 0xB0000006 = .e2pWrite { busy := 1, undescribed := 0, timeout := 0, macAddrLoaded := 0, addr := 6 } ∧
  decodeIndirect 0xC0000001 = .ok (.macCsrReadShadow 1)

/-! ## Steps, acceptance and rejection -/

/-- A step runs the instruction its fetch decodes: a written request when READY = 1, the request REQ holds while
one is in progress (alone, after a `tick`, or while the host polls), and a word of the device port. The
list of pending inputs with its `tick` and `poll` is the model's (log entry 6), and so are the device-port words
(log entry 8). -/
def Obligations.StepRunsDecodedInstruction : Prop :=
  (∀ (s : State) (q : Word) (rest : List Input) (i : Instr),
    s.inputs = .writeReq q :: rest → s.ready = true → decodeReq q = .ok i →
      step s = exec i { s with inputs := rest }) ∧
  (∀ (s : State) (i : Instr), s.ready = false → s.halted = false → decodeReq s.req = .ok i →
    (s.inputs = [] → step s = exec i s) ∧
    (∀ rest, s.inputs = .tick :: rest → step s = exec i { s with inputs := rest }) ∧
    (∀ rest, s.inputs = .poll :: rest → step s = exec i s)) ∧
  (∀ (s : State) (w : Word) (rest : List Input), s.inputs = .command w :: rest →
    step s = exec (decodeCommand w) { s with inputs := rest }) ∧
  (∀ (s : State) (x : BitVec 1) (rest : List Input), s.inputs = .indirect x :: rest →
    step s = exec (.macCsrReadShadow x) { s with inputs := rest })

/-- R21, R168: a write of REQ is discarded while READY = 0 (busy or halted), nothing changing; with READY = 1 it is accepted,
REQ and CUR_OP take it, nothing happens on the device port yet, and the
operation that bits 31:28 select starts. That CUR_OP takes the word is R168's line; that it still holds it after a
rejected word has finished is the model's reading, log entry 11. -/
def Obligations.RequestAcceptedOnlyWhenReady : Prop :=
  ∀ (s : State) (q : Word) (rest : List Input), s.inputs = .writeReq q :: rest →
    (s.ready = false → step s = .next { s with inputs := rest }) ∧
    (s.ready = true →
      (∃ t, step s = .next t ∧ t.req = q ∧ t.curOp = reqOp q ∧ s.samePort t) ∧
      ∀ op : Op, reqOp q = op.code → q &&& op.mask = op.matchBits →
        step s = exec (op.instr q) { s with inputs := rest })

/-- R191: BAD_OP for OP 0x0 and 0xC to 0xF, with no transaction and no field copied. -/
def Obligations.ReservedOpIsBadOp : Prop :=
  ∀ (s : State) (q : Word) (rest : List Input), s.inputs = .writeReq q :: rest →
    s.ready = true → s.halted = false → (reqOp q = 0 ∨ 0xC ≤ (reqOp q).toNat) →
    ∃ t, step s = .next t ∧ t.isRejected .badOp ∧ t.req = q ∧ s.samePort t ∧ t.res = s.res ∧
      s.sameRecords t ∧ t.curOff = s.curOff ∧ t.curIdx = s.curIdx ∧ t.curCmd = s.curCmd ∧
      t.curAddr = s.curAddr ∧ t.curData = s.curData ∧ t.curVal = s.curVal ∧ t.curMac = s.curMac

/-- R192: BAD_ARG for reserved bits and for operands out of range, with no transaction. -/
def Obligations.BadOperandsAreBadArg : Prop :=
  ∀ (s : State) (q : Word) (rest : List Input), s.inputs = .writeReq q :: rest →
    s.ready = true → s.halted = false →
    ((∃ op : Op, reqOp q = op.code ∧ q &&& op.mask ≠ op.matchBits) ∨
      (∃ off : Offset, (q = encode (.writeReg off) ∨ q = encode (.readReg off)) ∧
        (off.toNat % 2 = 1 ∨ off.toNat > 0xFFC)) ∨
      (∃ a : Byte, q = encode (.readCell a) ∧ a.toNat > 31) ∨
      (∃ a d : Byte, q = encode (.writeCell a d) ∧ a.toNat > 6)) →
    ∃ t, step s = .next t ∧ t.isRejected .badArg ∧ t.req = q ∧ s.samePort t ∧ t.res = s.res ∧
      s.sameRecords t

/-- R168, R78, R22, R23: what acceptance latches, and what it leaves alone, for every request whose operands are in
range: the fields of its format and the argument copies; no transaction, no result. -/
def Obligations.AcceptanceLatchesAndKeeps : Prop :=
  ∀ (i : Instr) (s : State), i.space = .request → i.wellFormed = true → s.ready = true →
    s.halted = false →
    ∃ t, exec i s = .next t ∧ t.running i ∧ t.curOp = reqOp (encode i) ∧ t.opst = t.curOp ∧
      t.curVal = s.argVal ∧ t.curMac = s.argMac ∧ t.half = false ∧ s.sameHost t ∧ s.samePort t ∧
      s.sameRecords t ∧ t.res = s.res ∧ t.outcome = s.outcome ∧ t.latchLo = s.latchLo ∧
      (∀ off, i = .writeReg off ∨ i = .readReg off → t.curOff = off) ∧
      (∀ x, i = .readMacShadow x → t.curIdx = x) ∧
      (∀ c a, i = .submit c a → t.curCmd = c ∧ t.curAddr = a) ∧
      (∀ a, i = .readCell a → t.curAddr = a ∧ t.curData = 0) ∧
      (∀ a d, i = .writeCell a d → t.curAddr = a ∧ t.curData = d) ∧
      ((∀ off, i ≠ .writeReg off ∧ i ≠ .readReg off) → t.curOff = s.curOff) ∧
      ((∀ x, i ≠ .readMacShadow x) → t.curIdx = s.curIdx) ∧
      ((∀ a d, i ≠ .readCell a ∧ i ≠ .writeCell a d) → t.curData = s.curData) ∧
      ((∃ off, i = .writeReg off ∨ i = .readReg off) ∨ (∃ x, i = .readMacShadow x) ∨ i = .waitIdle →
        t.curCmd = s.curCmd ∧ t.curAddr = s.curAddr) ∧
      (i = .enableWrite → t.curCmd = .ewen ∧ t.curAddr = s.curAddr) ∧
      (i = .disableWrite → t.curCmd = .ewds ∧ t.curAddr = s.curAddr) ∧
      ((∃ a, i = .readCell a) ∨ i = .dump ∨ i = .programAddress → t.curCmd = .read) ∧
      (∀ a d, i = .writeCell a d → t.curCmd = .write)

/-- R174, R206: with no pending input, a ready or halted EPB takes no step: nothing changes. -/
def Obligations.NoStepWithoutRequest : Prop :=
  ∀ s : State, s.inputs = [] → (s.ready = true ∨ s.halted = true) → step s = .next s

/-- R22, R23: a host write of ARG_VAL or ARG_MAC[j], at any time (ready, halted, or in the middle of an operation): the
step stores the value in its own register and changes nothing else but the list of pending actions. -/
def Obligations.HostArgumentWritesStore : Prop :=
  (∀ (s : State) (v : Word) (rest : List Input), s.inputs = .writeArgVal v :: rest →
    step s = .next { s with inputs := rest, argVal := v }) ∧
  (∀ (s : State) (j : Fin 6) (b : Byte) (rest : List Input), s.inputs = .writeArgMac j b :: rest →
    ∃ t, step s = .next t ∧ t = { s with inputs := rest, argMac := t.argMac } ∧ t.argMac[j] = b ∧
      ∀ k : Fin 6, k ≠ j → t.argMac[k] = s.argMac[k])

/-! ## Frames of a transaction step -/

/-- R174, R62: a transaction step of any request issues exactly one device-port transaction. The window changes only
by that transaction, and the host's registers, the parameters and what acceptance latched stay. -/
def Obligations.TransactionStepFrame : Prop :=
  ∀ (i : Instr) (s t : State), i.space = .request → s.running i → exec i s = .next t →
    s.sameHost t ∧ s.sameLatches t ∧
    ∃ e : BusEvent, t.trace = s.trace ++ [e] ∧
      (∀ o v, e = .read o v → v = s.readValue o ∧ t.window = s.window ∧
        t.device = s.device.afterRead s.params o) ∧
      (∀ o v, e = .write o v → t.window = Memory.writeHalf s.window o v ∧
        t.device = s.device.afterWrite s.params o v)

/-- R57, R50, R53: every device-port transaction of every step is 16-bit aligned: its offset is even. -/
def Obligations.EveryTransactionIsAligned : Prop :=
  ∀ s t : State, s.Inv → step s = .next t →
    ∃ es, t.trace = s.trace ++ es ∧ es.length ≤ 2 ∧ ∀ e ∈ es, e.off.toNat % 2 = 0

/-- R26: LAST_CMD receives the joined value of a command-register read of a poll or a check, and only a reset changes it
otherwise. -/
def Obligations.LastCmdHoldsCommandReads : Prop :=
  (∀ s t : State, s.Inv → step s = .next t → t.lastCmd ≠ s.lastCmd →
    (∃ rest, s.inputs = .reset :: rest) ∨
    (s.ready = false ∧ s.half = true ∧
      (s.cmdst = .prewait ∨ s.cmdst = .busy ∨ s.cmdst = .check) ∧
      t.trace = s.trace ++ [.read (s.params.e2pCmd + 2) (s.readValue (s.params.e2pCmd + 2))] ∧
      t.lastCmd = s.cmdValue)) ∧
  (∀ (i : Instr) (s t : State), i.space = .request → s.Inv → s.running i → exec i s = .next t →
    s.half = true → (s.cmdst = .prewait ∨ s.cmdst = .busy ∨ s.cmdst = .check) →
    t.lastCmd = s.cmdValue)

/-- R148, R124: TO is written by the timeout check alone, from bit 9 of the check's own read, and the check always writes
it; only a reset changes it otherwise. -/
def Obligations.TimeoutSeenOnlyByCheck : Prop :=
  (∀ s t : State, s.Inv → step s = .next t → t.toSeen ≠ s.toSeen →
    (∃ rest, s.inputs = .reset :: rest) ∨
    (s.ready = false ∧ s.cmdst = .check ∧ s.half = true ∧ t.toSeen = timeoutBit s.cmdValue)) ∧
  (∀ (i : Instr) (s t : State), i.space = .request → s.Inv → s.running i → exec i s = .next t →
    s.cmdst = .check → s.half = true → t.toSeen = timeoutBit s.cmdValue)

/-- R27: an image cell is written when the readCell of that cell returns, one cell a step, PRE_IMG in DUMP and step 1 of
PROGRAM_ADDRESS, POST_IMG in its step 5; only a reset changes an image otherwise. -/
def Obligations.ImagesWrittenCellByCell : Prop :=
  (∀ s t : State, s.Inv → step s = .next t → (∀ rest, s.inputs ≠ .reset :: rest) →
    (t.preImg = s.preImg ∨
      s.seqst = .dumpPre ∧ s.cmdst = .read ∧ s.half = true ∧
        t.preImg = s.preImg.set s.cell.toNat (dataByte s.dataValue) s.cell.isLt) ∧
    (t.postImg = s.postImg ∨
      s.seqst = .dumpPost ∧ s.cmdst = .read ∧ s.half = true ∧
        t.postImg = s.postImg.set s.cell.toNat (dataByte s.dataValue) s.cell.isLt)) ∧
  (∀ (i : Instr) (s t : State), i.space = .request → s.Inv → s.running i → exec i s = .next t →
    s.cmdst = .read → s.half = true →
    (s.seqst = .dumpPre → t.preImg = s.preImg.set s.cell.toNat (dataByte s.dataValue) s.cell.isLt) ∧
    (s.seqst = .dumpPost → t.postImg = s.postImg.set s.cell.toNat (dataByte s.dataValue) s.cell.isLt))

/-- R25: while a request is in progress RES keeps its value until the step that finishes it. -/
def Obligations.ResWrittenOnlyAtFinish : Prop :=
  ∀ (i : Instr) (s t : State), i.space = .request → s.running i → exec i s = .next t →
    t.res ≠ s.res → t.isOk ∨ t.isHalted

/-- R22, R23, R224: arguments are latched at acceptance: other values in ARG_VAL and ARG_MAC change nothing else of a
transaction step. -/
def Obligations.ArgumentWritesDoNotReachRunningRequest : Prop :=
  ∀ (i : Instr) (s t : State) (v : Word) (m : Vector Byte 6), i.space = .request → s.running i →
    exec i s = .next t →
    exec i { s with argVal := v, argMac := m } = .next { t with argVal := v, argMac := m }

/-! ## The Register Transport -/

/-- R104, R100: WRITE_REG, from acceptance to finish: two writes, low half first, the four bytes of the register and no
other, RES 0, and nothing recorded. -/
def Obligations.WriteRegCompletes : Prop :=
  ∀ (off : Offset) (s : State), s.ready = true → s.halted = false → regOffsetOk off = true →
    Memory.wf s.window = true →
    ∃ s1 s2 s3, exec (.writeReg off) s = .next s1 ∧ exec (.writeReg off) s1 = .next s2 ∧
      exec (.writeReg off) s2 = .next s3 ∧
      s1.seqst = .single ∧ s1.cmdst = .xfer ∧ s1.half = false ∧ s2.half = true ∧
      s2.trace = s.trace ++ [.write off (loHalf s.argVal)] ∧
      s3.trace = s.trace ++ [.write off (loHalf s.argVal), .write (off + 2) (hiHalf s.argVal)] ∧
      s3.isOk ∧ s3.res = 0 ∧ s.sameRecords s3 ∧ s.sameHost s3 ∧
      Memory.readHalf s3.window off = loHalf s.argVal ∧
      Memory.readHalf s3.window (off + 2) = hiHalf s.argVal ∧ s.sameBytesBut off s3 ∧
      s3.req = encode (.writeReg off) ∧ s3.curOff = off ∧ s3.curVal = s.argVal ∧
      s3.curIdx = s.curIdx ∧ s3.curCmd = s.curCmd ∧ s3.curAddr = s.curAddr ∧
      s3.curData = s.curData ∧ s3.latchLo = s.latchLo

/-- R105, R101: READ_REG, from acceptance to finish: two reads, low half first, joined into RES; the window and the
records stay. -/
def Obligations.ReadRegCompletes : Prop :=
  ∀ (off : Offset) (s : State), s.ready = true → s.halted = false → regOffsetOk off = true →
    ∃ s1 s2 s3, exec (.readReg off) s = .next s1 ∧ exec (.readReg off) s1 = .next s2 ∧
      exec (.readReg off) s2 = .next s3 ∧
      s1.seqst = .single ∧ s1.cmdst = .xfer ∧ s1.half = false ∧ s2.latchLo = s1.readValue off ∧
      s2.half = true ∧
      s3.trace = s.trace ++ [.read off (s1.readValue off), .read (off + 2) (s2.readValue (off + 2))] ∧
      s3.isOk ∧ s3.res = joinHalves (s2.readValue (off + 2)) (s1.readValue off) ∧
      s3.latchLo = s1.readValue off ∧ s3.window = s.window ∧ s.sameRecords s3 ∧ s.sameHost s3 ∧
      s3.req = encode (.readReg off) ∧ s3.curOff = off ∧ s3.curIdx = s.curIdx ∧
      s3.curCmd = s.curCmd ∧ s3.curAddr = s.curAddr ∧ s3.curData = s.curData

/-- R102: the round trip. After a WRITE_REG, in any later ready state `u` in which neither half-word was written again, a
READ_REG whose two half-word reads behave as memory returns the value written. -/
def Obligations.RegisterRoundTrip : Prop :=
  ∀ (off : Offset) (s s1 s2 s3 u u1 u2 : State), s.ready = true → s.halted = false →
    regOffsetOk off = true → Memory.wf s.window = true →
    exec (.writeReg off) s = .next s1 → exec (.writeReg off) s1 = .next s2 →
    exec (.writeReg off) s2 = .next s3 →
    u.ready = true → u.halted = false →
    Memory.readHalf u.window off = Memory.readHalf s3.window off →
    Memory.readHalf u.window (off + 2) = Memory.readHalf s3.window (off + 2) →
    exec (.readReg off) u = .next u1 → u1.memoryAt off →
    exec (.readReg off) u1 = .next u2 → u2.memoryAt (off + 2) →
    ∃ t, exec (.readReg off) u2 = .next t ∧ t.isOk ∧ t.res = s.argVal

/-- R106, R103: READ_MAC_SHADOW, from acceptance to finish: the indirect word to MAC_CSR_CMD, then the read of
MAC_CSR_DATA with no wait between, joined into RES. -/
def Obligations.ReadMacShadowCompletes : Prop :=
  ∀ (idx : BitVec 1) (s : State), s.ready = true → s.halted = false → Memory.wf s.window = true →
    ∃ s1 s2 s3 s4 s5, exec (.readMacShadow idx) s = .next s1 ∧
      exec (.readMacShadow idx) s1 = .next s2 ∧ exec (.readMacShadow idx) s2 = .next s3 ∧
      exec (.readMacShadow idx) s3 = .next s4 ∧ exec (.readMacShadow idx) s4 = .next s5 ∧
      s5.trace = s.trace ++
        [.write s.params.macCsrCmd (idx.setWidth 16), .write (s.params.macCsrCmd + 2) 0xC000,
         .read s.params.macCsrData (s3.readValue s.params.macCsrData),
         .read (s.params.macCsrData + 2) (s4.readValue (s.params.macCsrData + 2))] ∧
      s5.isOk ∧
      s5.res = joinHalves (s4.readValue (s.params.macCsrData + 2))
        (s3.readValue s.params.macCsrData) ∧
      s.sameRecords s5 ∧ s.sameHost s5 ∧ s.sameBytesBut s.params.macCsrCmd s5 ∧
      Memory.readHalf s5.window s.params.macCsrCmd = idx.setWidth 16 ∧
      Memory.readHalf s5.window (s.params.macCsrCmd + 2) = 0xC000 ∧
      s5.curIdx = idx ∧ s5.curOff = s.curOff ∧ s5.curCmd = s.curCmd ∧ s5.curAddr = s.curAddr ∧
      s5.curData = s.curData

/-! ## The protocol primitives -/

/-- R127, R122: SUBMIT, from acceptance to finish: the command word with BUSY = 0 and then the same word with BUSY = 1,
four writes in order, no wait. -/
def Obligations.SubmitCompletes : Prop :=
  ∀ (c : Cmd) (a : Byte) (s : State), s.ready = true → s.halted = false →
    Memory.wf s.window = true →
    ∃ s1 s2 s3 s4 s5, exec (.submit c a) s = .next s1 ∧ exec (.submit c a) s1 = .next s2 ∧
      exec (.submit c a) s2 = .next s3 ∧ exec (.submit c a) s3 = .next s4 ∧
      exec (.submit c a) s4 = .next s5 ∧
      s1.cmdst = .issue1 ∧ s3.cmdst = .issue2 ∧
      s5.trace = s.trace ++ submitEvents s.params c a ∧
      s5.isOk ∧ s5.res = 0 ∧ s.sameRecords s5 ∧ s.sameHost s5 ∧
      s.sameBytesBut s.params.e2pCmd s5 ∧
      Memory.readHalf s5.window s.params.e2pCmd = loHalf (cmdWord true c a) ∧
      Memory.readHalf s5.window (s.params.e2pCmd + 2) = hiHalf (cmdWord true c a) ∧
      s5.curCmd = c ∧ s5.curAddr = a ∧ s5.curOff = s.curOff ∧ s5.curIdx = s.curIdx ∧
      s5.curData = s.curData ∧ s5.latchLo = s.latchLo

/-- R126, R120: WAIT_IDLE, step by step: acceptance, the low half of an iteration, an iteration that sees BUSY, and the
one that does not, which finishes with the value in RES. -/
def Obligations.WaitIdleCompletes : Prop :=
  (∀ s : State, s.ready = true → s.halted = false →
    ∃ t, exec .waitIdle s = .next t ∧ t.running .waitIdle ∧ t.pointOf .waitIdle ∧
      t.half = false ∧ s.samePort t ∧ s.sameRecords t ∧ t.res = s.res) ∧
  (∀ s : State, s.running .waitIdle → s.pointOf .waitIdle → s.half = false →
    ∃ t, exec .waitIdle s = .next t ∧ t.pointOf .waitIdle ∧ t.half = true ∧
      t.latchLo = s.readValue s.params.e2pCmd ∧
      t.trace = s.trace ++ [.read s.params.e2pCmd (s.readValue s.params.e2pCmd)] ∧
      t.window = s.window ∧ s.sameRecords t ∧ t.res = s.res ∧ t.outcome = s.outcome) ∧
  (∀ s : State, s.running .waitIdle → s.pointOf .waitIdle → s.half = true →
    ∃ t, exec .waitIdle s = .next t ∧ t.lastCmd = s.cmdValue ∧ t.window = s.window ∧
      t.trace = s.trace ++
        [.read (s.params.e2pCmd + 2) (s.readValue (s.params.e2pCmd + 2))] ∧
      t.toSeen = s.toSeen ∧ t.preImg = s.preImg ∧ t.postImg = s.postImg ∧
      (busyBit s.cmdValue = true → t.running .waitIdle ∧ t.pointOf .waitIdle ∧ t.half = false ∧
        t.res = s.res ∧ t.outcome = s.outcome) ∧
      (busyBit s.cmdValue = false → t.isOk ∧ t.res = s.cmdValue))

/-- R126, R121: a WAIT_IDLE whose device answers any finite number of busy iterations and then an idle one takes exactly
2k reads and finishes with the last value. -/
def Obligations.WaitIdleRun : Prop :=
  ∀ (s : State) (w : Wait) (rest : List Half) (n : Nat), s.ready = true → s.halted = false →
    s.inputs = [] → w.ok = true → s.device = liveDevice (w.answers ++ rest) n →
    ∃ s1 t, exec .waitIdle s = .next s1 ∧ run (2 * w.count) s1 = .next t ∧ t.isOk ∧
      t.res = w.last.value ∧ t.lastCmd = w.last.value ∧ t.trace = s.trace ++ w.events s.params ∧
      t.device = liveDevice rest n ∧ t.window = s.window ∧ t.toSeen = s.toSeen

/-- R121, R197: a device that keeps answering BUSY keeps the EPB in the poll: after any number of busy iterations no
outcome is reported and READY is 0. The run goes on; it is no fault. -/
def Obligations.BusyDeviceHangsThePoll : Prop :=
  ∀ (s : State) (polls : List ReadPair) (rest : List Half) (n : Nat), s.running .waitIdle →
    s.pointOf .waitIdle → s.half = false → s.inputs = [] →
    polls.all (fun r => r.hi.getLsbD 15) = true →
    s.device = liveDevice (polls.flatMap ReadPair.answers ++ rest) n →
    ∃ t, run (2 * polls.length) s = .next t ∧ t.running .waitIdle ∧ t.pointOf .waitIdle ∧
      t.half = false ∧ t.outcome = s.outcome ∧ t.res = s.res ∧
      t.trace = s.trace ++ polls.flatMap (ReadPair.events s.params.e2pCmd)

/-! ## Cell operations -/

/-- R141: READ_CELL: its acceptance stands at the pre-wait of the cell, and the high half of its data read finishes it
with the byte in RES. -/
def Obligations.ReadCellCompletes : Prop :=
  (∀ (a : Byte) (s : State), s.ready = true → s.halted = false → a.toNat ≤ 31 →
    ∃ t, exec (.readCell a) s = .next t ∧ t.running (.readCell a) ∧ t.pointOf (.readCell a) ∧
      t.cmdst = .prewait ∧ t.half = false ∧ s.samePort t ∧ s.sameRecords t ∧ t.res = s.res) ∧
  (∀ (a : Byte) (s : State), s.running (.readCell a) → s.pointOf (.readCell a) →
    s.cmdst = .read → s.half = true →
    ∃ t, exec (.readCell a) s = .next t ∧ t.isOk ∧ t.res = (dataByte s.dataValue).setWidth 32 ∧
      t.trace = s.trace ++
        [.read (s.params.e2pData + 2) (s.readValue (s.params.e2pData + 2))] ∧
      t.window = s.window ∧ s.sameRecords t ∧ s.sameHost t ∧ s.sameLatches t ∧
      t.latchLo = s.latchLo)

/-- R143, R142, R124, R193: ENABLE_WRITE: its acceptance stands at the pre-wait, and the high half of its timeout check
finishes it with the value in RES: OK with bit 9 clear, FATAL_TIMEOUT and S_HALTED with bit 9 set. -/
def Obligations.EnableWriteCompletes : Prop :=
  (∀ s : State, s.ready = true → s.halted = false →
    ∃ t, exec .enableWrite s = .next t ∧ t.running .enableWrite ∧ t.pointOf .enableWrite ∧
      t.cmdst = .prewait ∧ t.half = false ∧ s.samePort t ∧ s.sameRecords t ∧ t.res = s.res) ∧
  (∀ s : State, s.running .enableWrite → s.pointOf .enableWrite → s.cmdst = .check →
    s.half = true →
    ∃ t, exec .enableWrite s = .next t ∧ t.res = s.cmdValue ∧ t.lastCmd = s.cmdValue ∧
      t.toSeen = timeoutBit s.cmdValue ∧ (timeoutBit s.cmdValue = false → t.isOk) ∧
      (timeoutBit s.cmdValue = true → t.isHalted) ∧ t.preImg = s.preImg ∧
      t.postImg = s.postImg ∧ t.window = s.window ∧ s.sameHost t ∧ s.sameLatches t ∧
      t.trace = s.trace ++
        [.read (s.params.e2pCmd + 2) (s.readValue (s.params.e2pCmd + 2))])

/-- R145: WRITE_CELL: its acceptance stands at the pre-wait, its data write puts the byte on E2P_DATA, and the post-wait's
last poll finishes it with RES 0, whatever bit 9 holds. -/
def Obligations.WriteCellCompletes : Prop :=
  (∀ (a d : Byte) (s : State), s.ready = true → s.halted = false → a.toNat ≤ 6 →
    ∃ t, exec (.writeCell a d) s = .next t ∧ t.running (.writeCell a d) ∧
      t.pointOf (.writeCell a d) ∧ t.cmdst = .prewait ∧ t.half = false ∧ s.samePort t ∧
      s.sameRecords t ∧ t.res = s.res) ∧
  (∀ (a d : Byte) (s : State), s.running (.writeCell a d) → s.pointOf (.writeCell a d) →
    s.cmdst = .data → s.half = false →
    ∃ t u, exec (.writeCell a d) s = .next t ∧ exec (.writeCell a d) t = .next u ∧
      u.cmdst = .issue1 ∧ u.half = false ∧ u.pointOf (.writeCell a d) ∧
      u.trace = s.trace ++
        [.write s.params.e2pData (d.setWidth 16), .write (s.params.e2pData + 2) 0] ∧
      s.sameBytesBut s.params.e2pData u ∧ s.sameRecords u ∧ u.res = s.res) ∧
  (∀ (a d : Byte) (s : State), s.running (.writeCell a d) → s.pointOf (.writeCell a d) →
    s.cmdst = .busy → s.half = true → busyBit s.cmdValue = false →
    ∃ t, exec (.writeCell a d) s = .next t ∧ t.isOk ∧ t.res = 0 ∧ t.lastCmd = s.cmdValue ∧
      t.toSeen = s.toSeen ∧ t.preImg = s.preImg ∧ t.postImg = s.postImg ∧
      t.window = s.window ∧ s.sameHost t ∧ s.sameLatches t)

/-- R147: DISABLE_WRITE: its acceptance stands at the pre-wait, and the post-wait's last poll finishes it with RES 0,
whatever bit 9 holds. -/
def Obligations.DisableWriteCompletes : Prop :=
  (∀ s : State, s.ready = true → s.halted = false →
    ∃ t, exec .disableWrite s = .next t ∧ t.running .disableWrite ∧ t.pointOf .disableWrite ∧
      t.cmdst = .prewait ∧ t.half = false ∧ s.samePort t ∧ s.sameRecords t ∧ t.res = s.res) ∧
  (∀ s : State, s.running .disableWrite → s.pointOf .disableWrite → s.cmdst = .busy →
    s.half = true → busyBit s.cmdValue = false →
    ∃ t, exec .disableWrite s = .next t ∧ t.isOk ∧ t.res = 0 ∧ t.lastCmd = s.cmdValue ∧
      t.toSeen = s.toSeen ∧ t.preImg = s.preImg ∧ t.postImg = s.postImg ∧
      t.window = s.window ∧ s.sameHost t ∧ s.sameLatches t)

/-- R140, R141: a whole READ_CELL against a device that answers any number of busy polls: the exact bus trace, the number
of transactions, the byte in RES. -/
def Obligations.ReadCellRun : Prop :=
  ∀ (a : Byte) (s : State) (r : CellRun) (rest : List Half) (n : Nat), s.ready = true →
    s.halted = false → s.inputs = [] → a.toNat ≤ 31 → r.ok = true →
    s.device = liveDevice (r.answers .read ++ rest) n →
    ∃ s1 t, exec (.readCell a) s = .next s1 ∧ run (r.transactions .read) s1 = .next t ∧ t.isOk ∧
      t.res = r.byte.setWidth 32 ∧ t.lastCmd = r.post.last.value ∧
      t.trace = s.trace ++ r.events s.params .read (cellOfAddr a) 0 ∧
      (r.events s.params .read (cellOfAddr a) 0).length = 2 * r.pre.count + 4 + 2 * r.post.count + 2 ∧
      t.device = liveDevice rest n ∧ t.toSeen = s.toSeen ∧ t.preImg = s.preImg ∧
      t.postImg = s.postImg

/-- R142, R143: a whole ENABLE_WRITE: the exact bus trace, and the outcome that the separate check read decides. -/
def Obligations.EnableWriteRun : Prop :=
  ∀ (s : State) (r : CellRun) (rest : List Half) (n : Nat), s.ready = true → s.halted = false →
    s.inputs = [] → r.ok = true → s.device = liveDevice (r.answers .unlock ++ rest) n →
    ∃ s1 t, exec .enableWrite s = .next s1 ∧ run (r.transactions .unlock) s1 = .next t ∧
      t.res = r.tail.value ∧ t.lastCmd = r.tail.value ∧ t.toSeen = r.tail.lo.getLsbD 9 ∧
      (r.tail.lo.getLsbD 9 = false → t.isOk) ∧ (r.tail.lo.getLsbD 9 = true → t.isHalted) ∧
      t.trace = s.trace ++ r.events s.params .unlock 0 0 ∧ t.device = liveDevice rest n

/-- R144, R145: a whole WRITE_CELL: the pre-wait, the data write, the two phases, the post-wait. -/
def Obligations.WriteCellRun : Prop :=
  ∀ (a d : Byte) (s : State) (r : CellRun) (rest : List Half) (n : Nat), s.ready = true →
    s.halted = false → s.inputs = [] → a.toNat ≤ 6 → r.ok = true →
    s.device = liveDevice (r.answers .write ++ rest) n →
    ∃ s1 t, exec (.writeCell a d) s = .next s1 ∧ run (r.transactions .write) s1 = .next t ∧
      t.isOk ∧ t.res = 0 ∧ t.lastCmd = r.post.last.value ∧ t.toSeen = s.toSeen ∧
      t.trace = s.trace ++ r.events s.params .write (cellOfAddr a) d ∧
      t.device = liveDevice rest n

/-- R146, R147: a whole DISABLE_WRITE. -/
def Obligations.DisableWriteRun : Prop :=
  ∀ (s : State) (r : CellRun) (rest : List Half) (n : Nat), s.ready = true → s.halted = false →
    s.inputs = [] → r.ok = true → s.device = liveDevice (r.answers .lock ++ rest) n →
    ∃ s1 t, exec .disableWrite s = .next s1 ∧ run (r.transactions .lock) s1 = .next t ∧ t.isOk ∧
      t.res = 0 ∧ t.lastCmd = r.post.last.value ∧ t.toSeen = s.toSeen ∧
      t.trace = s.trace ++ r.events s.params .lock 0 0 ∧ t.device = liveDevice rest n

/-! ## The sequencer -/

/-- R161, R160: DUMP: its acceptance stands at the pre-wait of cell 0, and the high half of each data read writes PRE_IMG
at its cell, then starts the next cell or, after cell 31, finishes with RES 0. The points concluded hold
CUR_ADDR = the cell, which R28 says and no pseudocode line writes: the model's reading, log entry 9. -/
def Obligations.DumpCompletes : Prop :=
  (∀ s : State, s.ready = true → s.halted = false →
    ∃ t, exec .dump s = .next t ∧ t.running .dump ∧ t.pointOf .dump ∧ t.cmdst = .prewait ∧
      t.cell = 0 ∧ t.half = false ∧ s.samePort t ∧ s.sameRecords t ∧ t.res = s.res) ∧
  (∀ s : State, s.running .dump → s.pointOf .dump → s.cmdst = .read → s.half = true →
    ∃ t, exec .dump s = .next t ∧
      t.preImg = s.preImg.set s.cell.toNat (dataByte s.dataValue) s.cell.isLt ∧
      t.postImg = s.postImg ∧ t.toSeen = s.toSeen ∧ t.lastCmd = s.lastCmd ∧
      t.window = s.window ∧ s.sameHost t ∧ s.sameLatches t ∧
      (s.cell = 31 → t.isOk ∧ t.res = 0) ∧
      (s.cell ≠ 31 → t.running .dump ∧ t.pointOf .dump ∧ t.cmdst = .prewait ∧ t.half = false ∧
        t.cell = s.cell + 1 ∧ t.res = s.res))

/-- R163: PROGRAM_ADDRESS: its acceptance stands at the pre-wait of cell 0 of the first dump, and the data read of cell 31
of the second dump finishes it with RES 0. The point concluded holds CUR_ADDR = the cell, which R28 says and no
pseudocode line writes: the model's reading, log entry 9. -/
def Obligations.ProgramAddressCompletes : Prop :=
  (∀ s : State, s.ready = true → s.halted = false →
    ∃ t, exec .programAddress s = .next t ∧ t.running .programAddress ∧
      t.pointOf .programAddress ∧ t.seqst = .dumpPre ∧ t.cmdst = .prewait ∧ t.cell = 0 ∧
      t.half = false ∧ t.curMac = s.argMac ∧ s.samePort t ∧ s.sameRecords t ∧ t.res = s.res) ∧
  (∀ s : State, s.running .programAddress → s.pointOf .programAddress → s.seqst = .dumpPost →
    s.cmdst = .read → s.cell = 31 → s.half = true →
    ∃ t, exec .programAddress s = .next t ∧ t.isOk ∧ t.res = 0 ∧ t.preImg = s.preImg ∧
      t.postImg = s.postImg.set 31 (dataByte s.dataValue) ∧ t.toSeen = s.toSeen ∧
      t.lastCmd = s.lastCmd ∧ t.window = s.window ∧ s.sameHost t ∧ s.sameLatches t)

/-- R173: the phases of PROGRAM_ADDRESS. SEQST moves at the ends the rule names and at no other step. CELL moves only at
the end of a readCell of a dump and of a writeCell of step 3: a cell that is not the phase's last is followed by the
next one, and the last by CELL 0 of the next phase. -/
def Obligations.ProgramPhases : Prop :=
  ∀ s t : State, s.running .programAddress → s.pointOf .programAddress →
    exec .programAddress s = .next t →
    (t.seqst = s.seqst ∧ (t.cell = s.cell ∨ t.cell = s.cell + 1) ∨
    s.seqst = .dumpPre ∧ s.cell = 31 ∧ s.cmdst = .read ∧ t.seqst = .unlock ∧ t.cell = 0 ∨
    s.seqst = .unlock ∧ s.cmdst = .check ∧ timeoutBit s.cmdValue = true ∧ t.seqst = .halted ∧
      t.cell = 0 ∨
    s.seqst = .unlock ∧ s.cmdst = .check ∧ timeoutBit s.cmdValue = false ∧ t.seqst = .write ∧
      t.cell = 0 ∧ t.curData = 0xA5 ∨
    s.seqst = .write ∧ s.cell = 6 ∧ s.cmdst = .busy ∧ t.seqst = .lock ∧ t.cell = 0 ∨
    s.seqst = .lock ∧ s.cmdst = .busy ∧ t.seqst = .dumpPost ∧ t.cell = 0 ∨
    s.seqst = .dumpPost ∧ s.cell = 31 ∧ s.cmdst = .read ∧ t.seqst = .idle ∧ t.cell = 0) ∧
    (s.seqst = .dumpPre → s.cmdst = .read → s.half = true → s.cell = 31 → t.seqst = .unlock) ∧
    (s.seqst = .unlock → s.cmdst = .check → s.half = true →
      t.seqst = if timeoutBit s.cmdValue then .halted else .write) ∧
    (s.seqst = .write → s.cmdst = .busy → s.half = true → busyBit s.cmdValue = false →
      t.seqst = if s.cell = 6 then .lock else .write) ∧
    (s.seqst = .lock → s.cmdst = .busy → s.half = true → busyBit s.cmdValue = false →
      t.seqst = .dumpPost) ∧
    (s.seqst = .dumpPost → s.cmdst = .read → s.half = true → s.cell = 31 → t.seqst = .idle) ∧
    (s.half = false → t.seqst = s.seqst ∧ t.cell = s.cell) ∧
    (s.cmdst ≠ .read → ¬(s.seqst = .write ∧ s.cmdst = .busy ∧ busyBit s.cmdValue = false) →
      t.cell = s.cell) ∧
    (s.cmdst = .read → s.half = true → s.cell ≠ 31 →
      t.seqst = s.seqst ∧ t.cell = s.cell + 1) ∧
    (s.seqst = .write → s.cmdst = .busy → s.half = true → busyBit s.cmdValue = false →
      s.cell ≠ 6 → t.seqst = .write ∧ t.cell = s.cell + 1)

/-- R172: the transitions of the command FSM inside a single cell request and inside every cell operation of DUMP and
PROGRAM_ADDRESS: `op` is the cell operation in progress, `last` says that none follows. -/
def Obligations.CommandFsmTransitions : Prop :=
  ∀ (i : Instr) (op : CellOp) (last : Bool) (s t : State), s.running i → s.pointOf i →
    ((∃ a, i = .readCell a ∧ op = .read ∧ last = true) ∨
      (i = .enableWrite ∧ op = .unlock ∧ last = true) ∨
      (∃ a d, i = .writeCell a d ∧ op = .write ∧ last = true) ∨
      (i = .disableWrite ∧ op = .lock ∧ last = true) ∨
      (i = .dump ∧ op = .read ∧ last = decide (s.cell = 31)) ∨
      (i = .programAddress ∧
        (s.seqst = .dumpPre ∧ op = .read ∧ last = false ∨
          s.seqst = .unlock ∧ op = .unlock ∧ last = false ∨
          s.seqst = .write ∧ op = .write ∧ last = false ∨
          s.seqst = .lock ∧ op = .lock ∧ last = false ∨
          s.seqst = .dumpPost ∧ op = .read ∧ last = decide (s.cell = 31)))) →
    exec i s = .next t →
    (s.half = false → t.half = true ∧ t.cmdst = s.cmdst) ∧
    (s.half = true → t.half = false ∧
      t.cmdst =
        (match s.cmdst with
        | .prewait => if busyBit s.cmdValue then .prewait
            else if op = .write then .data else .issue1
        | .data => .issue1
        | .issue1 => .issue2
        | .issue2 => .busy
        | .busy => if busyBit s.cmdValue then .busy
            else if op = .read then .read
            else if op = .unlock then .check
            else if last then .complete else .prewait
        | .read => if last then .complete else .prewait
        | .check => if timeoutBit s.cmdValue then .timeout
            else if last then .complete else .prewait
        | other => other))

/-- R160, R161, R166: a whole DUMP: 32 readCells in ascending order, the exact bus trace, 192 + 2·P transactions, every cell
of PRE_IMG. -/
def Obligations.DumpRun : Prop :=
  ∀ (s : State) (rs : List CellRun) (rest : List Half) (n : Nat), s.ready = true →
    s.halted = false → s.inputs = [] → rs.length = 32 → rs.all CellRun.ok = true →
    s.device = liveDevice (dumpAnswers rs ++ rest) n →
    ∃ s1 t, exec .dump s = .next s1 ∧ run (192 + 2 * runPolls rs) s1 = .next t ∧ t.isOk ∧
      t.res = 0 ∧ t.preImg.toList = dumpImage rs ∧ t.postImg = s.postImg ∧ t.toSeen = s.toSeen ∧
      t.trace = s.trace ++ dumpEvents s.params 0 rs ∧ t.device = liveDevice rest n

/-- R162, R163, R166: a whole PROGRAM_ADDRESS that is not halted, against a device that answers any number of busy polls:
the five steps' exact bus trace in 436 + 2·P transactions, both images, RES 0, TO 0. -/
def Obligations.ProgramAddressRun : Prop :=
  ∀ (s : State) (r : ProgramRun) (rest : List Half) (n : Nat), s.ready = true →
    s.halted = false → s.inputs = [] → r.ok = true → r.timedOut = false →
    s.device = liveDevice (r.answers ++ rest) n →
    ∃ s1 t, exec .programAddress s = .next s1 ∧ run (436 + 2 * r.polls) s1 = .next t ∧ t.isOk ∧
      t.res = 0 ∧ t.toSeen = false ∧ t.preImg.toList = dumpImage r.pre ∧
      t.postImg.toList = dumpImage r.post ∧ t.trace = s.trace ++ r.events s.params s.argMac ∧
      some t.lastCmd = r.post.getLast?.map (fun c => c.post.last.value) ∧
      t.device = liveDevice rest n

/-- R165, R193, R195: the fatal path of PROGRAM_ADDRESS: the first dump and the unlock, then the halt, with PRE_IMG written
and POST_IMG kept, RES and LAST_CMD the check's value; and there the EPB stays. -/
def Obligations.ProgramAddressFatalRun : Prop :=
  ∀ (s : State) (r : ProgramRun) (rest : List Half) (n k : Nat), s.ready = true →
    s.halted = false → s.inputs = [] → r.ok = true → r.timedOut = true →
    s.device = liveDevice (r.answersToUnlock ++ rest) n →
    ∃ s1 t, exec .programAddress s = .next s1 ∧
      run (198 + 2 * r.pollsToUnlock) s1 = .next t ∧ run k t = .next t ∧ t.isHalted ∧
      t.res = r.unlock.tail.value ∧ t.lastCmd = r.unlock.tail.value ∧ t.toSeen = true ∧
      t.preImg.toList = dumpImage r.pre ∧ t.postImg = s.postImg ∧
      t.trace = s.trace ++ r.eventsToUnlock s.params

/-- R164, R166: what every PROGRAM_ADDRESS that is not halted submits, whatever the host writes in its course: 32 READs,
EWEN, 7 WRITEs, EWDS, 32 READs, in that order, with the magic byte and the address latched at acceptance as the written
bytes; 436 + 2·P transactions, 306 of them writes, P at least 146. A pending action takes at most one step of its own. -/
def Obligations.ProgramTraceSubmissions : Prop :=
  ∀ (s : State) (r : ProgramRun) (rest : List Half) (n : Nat), s.ready = true →
    s.halted = false → s.inputs.all Input.leavesOperation = true → s.params.valid = true →
    r.ok = true → r.timedOut = false → s.device = liveDevice (r.answers ++ rest) n →
    ∃ s1 t es k, exec .programAddress s = .next s1 ∧ k ≤ s.inputs.length ∧
      run (436 + 2 * r.polls + k) s1 = .next t ∧ t.isOk ∧
      t.trace = s.trace ++ es ∧ submits s.params es = programSubmits ∧
      cellWrites s.params es = programCellWrites s.argMac ∧ es.length = 436 + 2 * r.polls ∧
      146 ≤ r.polls ∧ (es.filter BusEvent.isWrite).length = 306

/-- R165, R166: what the fatal path of PROGRAM_ADDRESS submits, whatever the host writes in its course: 32 READs and one
EWEN, and no cell write; PRE_IMG is written, POST_IMG is kept, and the EPB halts with FATAL_TIMEOUT. A pending action takes
at most one step of its own. -/
def Obligations.FatalTraceSubmissions : Prop :=
  ∀ (s : State) (r : ProgramRun) (rest : List Half) (n : Nat), s.ready = true →
    s.halted = false → s.inputs.all Input.leavesOperation = true → s.params.valid = true →
    r.ok = true → r.timedOut = true → s.device = liveDevice (r.answersToUnlock ++ rest) n →
    ∃ s1 t es k, exec .programAddress s = .next s1 ∧ k ≤ s.inputs.length ∧
      run (198 + 2 * r.pollsToUnlock + k) s1 = .next t ∧
      t.isHalted ∧ t.preImg.toList = dumpImage r.pre ∧ t.postImg = s.postImg ∧
      t.trace = s.trace ++ es ∧ submits s.params es = dumpSubmits ++ [(.ewen, 0)] ∧
      cellWrites s.params es = [] ∧ es.length = 198 + 2 * r.pollsToUnlock ∧ 66 ≤ r.pollsToUnlock

/-! ## The halted state -/

/-- R193: in S_HALTED the EPB issues no transaction and accepts no request: with no reset, and no word put on the port from
outside (log entry 8), a step changes only the pending inputs and the host's own argument registers. -/
def Obligations.HaltedUntilReset : Prop :=
  ∀ s t : State, s.Inv → s.halted = true → step s = .next t →
    (∀ rest, s.inputs ≠ .reset :: rest) → (∀ w rest, s.inputs ≠ .command w :: rest) →
    (∀ x rest, s.inputs ≠ .indirect x :: rest) →
    t = { s with inputs := t.inputs, argVal := t.argVal, argMac := t.argMac }

/-! ## The words of the device port -/

/-- R71, R100, R122: each of the eight command words goes to E2P_CMD as two writes, low half first, storing its four bytes
and no other; the device takes them in that order, and no EPB register changes (that it stands outside any
request is the model's choice, log entry 8). -/
def Obligations.CommandWordsGoOut : Prop :=
  ∀ (f : CmdFields) (s : State) (i : Instr),
    (i = .e2pRead f ∨ i = .e2pEwds f ∨ i = .e2pEwen f ∨ i = .e2pWrite f ∨ i = .e2pWral f ∨
      i = .e2pErase f ∨ i = .e2pEral f ∨ i = .e2pReload f) → Memory.wf s.window = true →
    ∃ t, exec i s = .next t ∧
      t.trace = s.trace ++ [.write s.params.e2pCmd (loHalf (encode i)),
        .write (s.params.e2pCmd + 2) (hiHalf (encode i))] ∧
      t.device = (s.device.afterWrite s.params s.params.e2pCmd (loHalf (encode i))).afterWrite
        s.params (s.params.e2pCmd + 2) (hiHalf (encode i)) ∧
      s.sameRegisters t ∧ s.samePoint t ∧ s.sameBytesBut s.params.e2pCmd t ∧
      Memory.readHalf t.window s.params.e2pCmd = loHalf (encode i) ∧
      Memory.readHalf t.window (s.params.e2pCmd + 2) = hiHalf (encode i)

/-- R76: the indirect word goes to MAC_CSR_CMD as two writes, the index and then 0xC000, and no EPB register changes
(that it stands outside any request is the model's choice, log entry 8). -/
def Obligations.IndirectWordGoesOut : Prop :=
  ∀ (x : BitVec 1) (s : State), Memory.wf s.window = true →
    ∃ t, exec (.macCsrReadShadow x) s = .next t ∧
      t.trace = s.trace ++ [.write s.params.macCsrCmd (x.setWidth 16),
        .write (s.params.macCsrCmd + 2) 0xC000] ∧
      s.sameRegisters t ∧ s.samePoint t ∧ s.sameBytesBut s.params.macCsrCmd t ∧
      Memory.readHalf t.window s.params.macCsrCmd = x.setWidth 16 ∧
      Memory.readHalf t.window (s.params.macCsrCmd + 2) = 0xC000

/-- R122, R73: the two phases of a SUBMIT are the two command words with BUSY = 0 and BUSY = 1: the device, the window and the
trace end the same either way (the words' own steps are the model's choice, log entry 8). -/
def Obligations.SubmitIsTwoCommandWords : Prop :=
  ∀ (c : Cmd) (a : Byte) (s s1 s2 s3 s4 s5 w1 w2 : State), s.ready = true → s.halted = false →
    exec (.submit c a) s = .next s1 → exec (.submit c a) s1 = .next s2 →
    exec (.submit c a) s2 = .next s3 → exec (.submit c a) s3 = .next s4 →
    exec (.submit c a) s4 = .next s5 →
    exec (Instr.ofCmd c { busy := 0, undescribed := 0, timeout := 0, macAddrLoaded := 0, addr := a }) s = .next w1 →
    exec (Instr.ofCmd c { busy := 1, undescribed := 0, timeout := 0, macAddrLoaded := 0, addr := a }) w1 = .next w2 →
    w2.samePort s5

/-! ## The reference device (a test double, log entry 3) -/

/-- RD5, RD6: what the eight commands do in the reference device with an EEPROM attached, when their words are written
with BUSY = 0 and then BUSY = 1. -/
def Obligations.ReferenceCommandEffects : Prop :=
  ∀ (c : Cmd) (a : Byte) (s : State) (r : RefDevice), s.params.valid = true →
    s.device.ref = some r → r.present = true →
    ∃ w1 w2 r',
      exec (Instr.ofCmd c { busy := 0, undescribed := 0, timeout := 0, macAddrLoaded := 0, addr := a }) s = .next w1 ∧
      exec (Instr.ofCmd c { busy := 1, undescribed := 0, timeout := 0, macAddrLoaded := 0, addr := a }) w1 = .next w2 ∧
      w2.device.ref = some r' ∧ r'.bc = r.b ∧ r'.tmo = false ∧ r'.last15 = true ∧
      (c = .read → ∀ h : a.toNat < 32, r'.data = (r.cells[a.toNat]).setWidth 32 ∧
        r'.cells = r.cells ∧ r'.we = r.we) ∧
      (c = .read → 32 ≤ a.toNat → r'.data = 0x000000FF) ∧
      (c = .ewds → r'.we = false ∧ r'.cells = r.cells) ∧
      (c = .ewen → r'.we = true ∧ r'.cells = r.cells) ∧
      (c = .write → r.we = true → ∀ h : a.toNat < 32,
        r'.cells = r.cells.set a.toNat (dataByte r.data) h) ∧
      (c = .write → r.we = false ∨ 32 ≤ a.toNat → r'.cells = r.cells) ∧
      (c = .wral → r'.cells = if r.we then Vector.replicate 32 (dataByte r.data) else r.cells) ∧
      (c = .erase → r.we = true → ∀ h : a.toNat < 32, r'.cells = r.cells.set a.toNat 0xFF h) ∧
      (c = .eral → r'.cells = if r.we then Vector.replicate 32 0xFF else r.cells) ∧
      (c = .reload → r'.mal = decide (r.cells[0] = 0xA5) ∧ r'.cells = r.cells)

/-- R167 on the reference device, with any busy period and any cells: PROGRAM_ADDRESS finishes OK, cells 0 to 6 hold A5 and
the address, cells 7 to 31 are unchanged, the images show it, and the array is locked again. -/
def Obligations.ReferenceDeviceIsProgrammed : Prop :=
  ∀ (s : State) (r : RefDevice), s.ready = true → s.halted = false → s.inputs = [] →
    s.params.valid = true → s.device.ref = some r → r.present = true →
    ∃ s1 n t r', exec .programAddress s = .next s1 ∧ run n s1 = .next t ∧ t.isOk ∧
      t.device.ref = some r' ∧ r'.we = false ∧ r'.cells[0] = 0xA5 ∧
      (∀ j : Fin 6, r'.cells[j.val + 1] = s.argMac[j]) ∧
      (∀ i : Fin 32, 7 ≤ i.val → r'.cells[i] = r.cells[i] ∧ t.postImg[i] = t.preImg[i]) ∧
      t.preImg = r.cells ∧ t.postImg = r'.cells

/-- W7 on the reference device with no EEPROM attached: PROGRAM_ADDRESS halts with FATAL_TIMEOUT and no cell is
changed. -/
def Obligations.ReferenceDeviceWithoutEepromHalts : Prop :=
  ∀ (s : State) (r : RefDevice), s.ready = true → s.halted = false → s.inputs = [] →
    s.params.valid = true → s.device.ref = some r → r.present = false →
    ∃ s1 n t r', exec .programAddress s = .next s1 ∧ run n s1 = .next t ∧ t.isHalted ∧
      t.device.ref = some r' ∧ r'.cells = r.cells ∧ t.postImg = s.postImg ∧
      timeoutBit t.res = true

/-! ## The host's side -/

/-- R24, R170, R190: the fields of STATUS, where the host reads them. -/
def Obligations.StatusFields : Prop :=
  ∀ s : State,
    s.status.getLsbD 0 = s.ready ∧ s.status.getLsbD 1 = s.halted ∧
    s.status.extractLsb' 2 3 = s.outcome.code ∧ s.status.extractLsb' 5 3 = 0 ∧
    s.status.extractLsb' 8 4 = s.opst ∧ s.status.extractLsb' 12 4 = s.seqst.code ∧
    s.status.extractLsb' 16 4 = s.cmdst.code ∧ s.status.extractLsb' 20 5 = s.cell ∧
    s.status.getLsbD 25 = s.half ∧ s.status.getLsbD 26 = s.toSeen ∧
    s.status.extractLsb' 27 5 = 0 ∧
    s.outcome.code.toNat ≤ 4 ∧ s.cmdst.code.toNat ≤ 10 ∧ s.seqst.code.toNat ≤ 7

/-- R16: the host's fixup clears bit 0 and sets bit 1 of byte 0 and leaves the other five bytes. -/
def Obligations.AddressFixup : Prop :=
  ∀ a : Vector Byte 6,
    (fixupAddress a)[0] = (a[0] &&& 0xFE) ||| 0x02 ∧
    (fixupAddress a)[0].getLsbD 0 = false ∧ (fixupAddress a)[0].getLsbD 1 = true ∧
    ∀ j : Fin 6, j.val ≠ 0 → (fixupAddress a)[j] = a[j]

/-- R83, R82: the pseudo-instructions are exactly their expansions, and `set ARG_MAC` writes the pairs in order. -/
def Obligations.PseudoInstructionExpansions : Prop :=
  (∀ off v, assemble [.writeReg32 off v] =
    [.writeArgVal v, .poll, .writeReq (0x10000000 ||| off.setWidth 32 <<< 16)]) ∧
  (∀ a, assemble [.programMac a] = argMacInputs a ++ [.poll, .writeReq 0xB0000000]) ∧
  (∀ r, assemble [.programRandom r] = assemble [.programMac (fixupAddress r)]) ∧
  (∀ (c : Cmd) (a : Byte), assemble [.cmd c a] =
    [.poll, .writeReq 0x40000000,
     .poll, .writeReq (0x50000000 ||| c.code.setWidth 32 <<< 16 ||| a.setWidth 32 <<< 8),
     .poll, .writeReq 0x40000000])
end

