-- ==== Sys2Proof/Laws/Decode.lean ====
section
/-! SUPPORT. The codes read back as they were written (30_encoding.md R71, R79). -/

namespace Sys2Proof

@[simp] theorem Cmd.ofCode_code (c : Cmd) : Cmd.ofCode c.code = c := by cases c <;> rfl

@[simp] theorem Cmd.code_ofCode (c : BitVec 3) : (Cmd.ofCode c).code = c := by
  revert c; decide

@[simp] theorem Op.ofCode_code (op : Op) : Op.ofCode op.code = some op := by cases op <;> rfl

theorem Op.code_ofCode : ∀ (c : BitVec 4) (op : Op), Op.ofCode c = some op → op.code = c := by
  intro c op h
  have : ∀ c : BitVec 4, (Op.ofCode c).all (fun op => op.code == c) = true := by decide
  have hc := this c
  rw [h] at hc
  simpa using hc

/-- R81: the reserved OP codes are exactly 0x0 and 0xC to 0xF. -/
theorem Op.ofCode_none (c : BitVec 4) : Op.ofCode c = none ↔ (c = 0 ∨ 0xC ≤ c.toNat) := by
  revert c; decide

@[simp] theorem Instr.ofCmd_space (c : Cmd) (f : CmdFields) : (Instr.ofCmd c f).space = .e2pCmd := by
  cases c <;> rfl

@[simp] theorem Instr.ofCmd_wellFormed (c : Cmd) (f : CmdFields) :
    (Instr.ofCmd c f).wellFormed = true := by
  cases c <;> rfl

theorem encode_ofCmd (c : Cmd) (f : CmdFields) : encode (Instr.ofCmd c f) = cmdWordOf c f := by
  cases c <;> rfl

theorem Op.instr_space (q : Word) (op : Op) : (op.instr q).space = .request := by cases op <;> rfl

/-- Every instruction a space's decoder gives is one of that space. -/
theorem decodeIn_space (sp : Space) (w : Word) (i : Instr) (h : decodeIn sp w = .ok i) :
    i.space = sp := by
  cases sp with
  | request =>
    simp only [decodeIn, decodeReq] at h
    split at h
    · cases h
    · split at h
      · cases h; exact Op.instr_space _ _
      · cases h
  | e2pCmd => cases h; exact Instr.ofCmd_space _ _
  | macCsrCmd =>
    simp only [decodeIn, decodeIndirect] at h
    split at h
    · cases h; rfl
    · cases h

/-! ## The fields of an encoded request -/

@[simp] theorem reqOp_writeReg (off : BitVec 12) : reqOp (encode (.writeReg off)) = 1#4 := by
  change (0x1#4 ++ off ++ 0#16).extractLsb' 28 4 = 1#4
  ext j hj
  simp only [BitVec.getElem_extractLsb', BitVec.getLsbD_append]
  interval_cases j <;> simp

@[simp] theorem reqOff_writeReg (off : BitVec 12) : reqOff (encode (.writeReg off)) = off := by
  change (0x1#4 ++ off ++ 0#16).extractLsb' 16 12 = off
  ext j hj
  simp only [BitVec.getElem_extractLsb', BitVec.getLsbD_append]
  interval_cases j <;> simp [← BitVec.getLsbD_eq_getElem]

@[simp] theorem reqOp_readReg (off : BitVec 12) : reqOp (encode (.readReg off)) = 2#4 := by
  change (0x2#4 ++ off ++ 0#16).extractLsb' 28 4 = 2#4
  ext j hj
  simp only [BitVec.getElem_extractLsb', BitVec.getLsbD_append]
  interval_cases j <;> simp

@[simp] theorem reqOff_readReg (off : BitVec 12) : reqOff (encode (.readReg off)) = off := by
  change (0x2#4 ++ off ++ 0#16).extractLsb' 16 12 = off
  ext j hj
  simp only [BitVec.getElem_extractLsb', BitVec.getLsbD_append]
  interval_cases j <;> simp [← BitVec.getLsbD_eq_getElem]

@[simp] theorem reqOp_readMacShadow (idx : BitVec 1) : reqOp (encode (.readMacShadow idx)) = 3#4 := by
  change (0x3#4 ++ 0#11 ++ idx ++ 0#16).extractLsb' 28 4 = 3#4
  ext j hj
  simp only [BitVec.getElem_extractLsb', BitVec.getLsbD_append]
  interval_cases j <;> simp

@[simp] theorem reqIdx_readMacShadow (idx : BitVec 1) : reqIdx (encode (.readMacShadow idx)) = idx := by
  change (0x3#4 ++ 0#11 ++ idx ++ 0#16).extractLsb' 16 1 = idx
  ext j hj
  simp only [BitVec.getElem_extractLsb', BitVec.getLsbD_append]
  interval_cases j <;> simp [← BitVec.getLsbD_eq_getElem]

@[simp] theorem reqOp_waitIdle : reqOp (encode .waitIdle) = 4#4 := by decide

@[simp] theorem reqOp_submit (cmd : Cmd) (addr : BitVec 8) : reqOp (encode (.submit cmd addr)) = 5#4 := by
  change (0x5#4 ++ 0#9 ++ cmd.code ++ addr ++ 0#8).extractLsb' 28 4 = 5#4
  ext j hj
  simp only [BitVec.getElem_extractLsb', BitVec.getLsbD_append]
  interval_cases j <;> simp

@[simp] theorem reqCmd_submit (cmd : Cmd) (addr : BitVec 8) : reqCmd (encode (.submit cmd addr)) = cmd := by
  have h : (0x5#4 ++ 0#9 ++ cmd.code ++ addr ++ 0#8).extractLsb' 16 3 = cmd.code := by
    ext j hj
    simp only [BitVec.getElem_extractLsb', BitVec.getLsbD_append]
    interval_cases j <;> simp [← BitVec.getLsbD_eq_getElem]
  exact (congrArg Cmd.ofCode h).trans (Cmd.ofCode_code cmd)

@[simp] theorem reqAddr_submit (cmd : Cmd) (addr : BitVec 8) : reqAddr (encode (.submit cmd addr)) = addr := by
  change (0x5#4 ++ 0#9 ++ cmd.code ++ addr ++ 0#8).extractLsb' 8 8 = addr
  ext j hj
  simp only [BitVec.getElem_extractLsb', BitVec.getLsbD_append]
  interval_cases j <;> simp [← BitVec.getLsbD_eq_getElem]

@[simp] theorem reqOp_readCell (addr : BitVec 8) : reqOp (encode (.readCell addr)) = 6#4 := by
  change (0x6#4 ++ 0#12 ++ addr ++ 0#8).extractLsb' 28 4 = 6#4
  ext j hj
  simp only [BitVec.getElem_extractLsb', BitVec.getLsbD_append]
  interval_cases j <;> simp

@[simp] theorem reqAddr_readCell (addr : BitVec 8) : reqAddr (encode (.readCell addr)) = addr := by
  change (0x6#4 ++ 0#12 ++ addr ++ 0#8).extractLsb' 8 8 = addr
  ext j hj
  simp only [BitVec.getElem_extractLsb', BitVec.getLsbD_append]
  interval_cases j <;> simp [← BitVec.getLsbD_eq_getElem]

@[simp] theorem reqOp_enableWrite : reqOp (encode .enableWrite) = 7#4 := by decide

@[simp] theorem reqOp_writeCell (addr data : BitVec 8) : reqOp (encode (.writeCell addr data)) = 8#4 := by
  change (0x8#4 ++ 0#12 ++ addr ++ data).extractLsb' 28 4 = 8#4
  ext j hj
  simp only [BitVec.getElem_extractLsb', BitVec.getLsbD_append]
  interval_cases j <;> simp

@[simp] theorem reqAddr_writeCell (addr data : BitVec 8) : reqAddr (encode (.writeCell addr data)) = addr := by
  change (0x8#4 ++ 0#12 ++ addr ++ data).extractLsb' 8 8 = addr
  ext j hj
  simp only [BitVec.getElem_extractLsb', BitVec.getLsbD_append]
  interval_cases j <;> simp [← BitVec.getLsbD_eq_getElem]

@[simp] theorem reqData_writeCell (addr data : BitVec 8) : reqData (encode (.writeCell addr data)) = data := by
  change (0x8#4 ++ 0#12 ++ addr ++ data).extractLsb' 0 8 = data
  ext j hj
  simp only [BitVec.getElem_extractLsb', BitVec.getLsbD_append]
  interval_cases j <;> simp [← BitVec.getLsbD_eq_getElem]

@[simp] theorem reqOp_disableWrite : reqOp (encode .disableWrite) = 9#4 := by decide

@[simp] theorem reqOp_dump : reqOp (encode .dump) = 10#4 := by decide

@[simp] theorem reqOp_programAddress : reqOp (encode .programAddress) = 11#4 := by decide

end Sys2Proof
end

