-- ==== Sys2Proof/Laws/Memory.lean ====
section
/-! SUPPORT. The window's bytes: reading after writing, and the canonical form. -/

namespace Sys2Proof.Machine

/-- A list whose addresses start at `lo` lists nothing below `lo`. -/
theorem Memory.read_below (m : Memory) :
    ∀ (lo a : Nat), Memory.wfFrom lo m = true → a < lo → Memory.read m a = unlistedByte := by
  induction m with
  | nil => intros; rfl
  | cons c m ih =>
    obtain ⟨k, v⟩ := c
    intro lo a h ha
    simp only [Memory.wfFrom, Bool.and_eq_true, decide_eq_true_eq] at h
    obtain ⟨⟨⟨h1, _⟩, _⟩, h4⟩ := h
    have hk : k ≠ a := by omega
    simp only [Memory.read, if_neg hk]
    exact ih (k + 1) a h4 (by omega)

/-- The canonical form from `lo` is one from any lower bound. -/
theorem Memory.wfFrom_mono {lo lo' : Nat} (h : lo' ≤ lo) (m : Memory)
    (hm : Memory.wfFrom lo m = true) : Memory.wfFrom lo' m = true := by
  cases m with
  | nil => rfl
  | cons c m =>
    obtain ⟨k, v⟩ := c
    simp only [Memory.wfFrom, Bool.and_eq_true, decide_eq_true_eq] at hm ⊢
    exact ⟨⟨⟨le_trans h hm.1.1.1, hm.1.1.2⟩, hm.1.2⟩, hm.2⟩

/-- Writing inside the window keeps the canonical form. -/
theorem Memory.wfFrom_write (m : Memory) :
    ∀ (lo a : Nat) (b : Byte), Memory.wfFrom lo m = true → lo ≤ a → a < 4096 →
      Memory.wfFrom lo (Memory.write m a b) = true := by
  induction m with
  | nil =>
    intro lo a b _ hlo ha
    unfold Memory.write
    split <;> simp_all [Memory.wfFrom]
  | cons c m ih =>
    obtain ⟨k, v⟩ := c
    intro lo a b h hlo ha
    have h' := h
    simp only [Memory.wfFrom, Bool.and_eq_true, decide_eq_true_eq] at h'
    obtain ⟨⟨⟨h1, h2⟩, h3⟩, h4⟩ := h'
    simp only [Memory.write]
    by_cases hak : a < k
    · rw [if_pos hak]
      split
      · exact h
      · rename_i hb
        have : Memory.wfFrom (a + 1) ((k, v) :: m) = true := by
          simp only [Memory.wfFrom, Bool.and_eq_true, decide_eq_true_eq]
          exact ⟨⟨⟨by omega, h2⟩, h3⟩, h4⟩
        unfold Memory.wfFrom
        simp [hlo, ha, hb, this]
    · rw [if_neg hak]
      by_cases hEq : a = k
      · subst hEq
        rw [if_pos rfl]
        split
        · exact Memory.wfFrom_mono (by omega) m h4
        · rename_i hb
          unfold Memory.wfFrom
          simp [hlo, ha, hb, h4]
      · rw [if_neg hEq]
        unfold Memory.wfFrom
        simp [h1, h2, h3, ih (k + 1) a b h4 (by omega) ha]

theorem Memory.wf_write (m : Memory) (a : Nat) (b : Byte) (h : Memory.wf m = true)
    (ha : a < 4096) : Memory.wf (Memory.write m a b) = true :=
  Memory.wfFrom_write m 0 a b h (Nat.zero_le _) ha

/-- A half-word write keeps the canonical form. -/
theorem Memory.wf_writeHalf (m : Memory) (off : Offset) (v : Half) (h : Memory.wf m = true) :
    Memory.wf (Memory.writeHalf m off v) = true :=
  Memory.wf_write _ _ _ (Memory.wf_write _ _ _ h off.isLt) (off + 1).isLt

/-- Reading what was written. -/
theorem Memory.read_write_same (m : Memory) :
    ∀ (lo a : Nat) (b : Byte), Memory.wfFrom lo m = true →
      Memory.read (Memory.write m a b) a = b := by
  induction m with
  | nil =>
    intro lo a b _
    unfold Memory.write
    split <;> simp_all [Memory.read]
  | cons c m ih =>
    obtain ⟨k, v⟩ := c
    intro lo a b h
    have h' := h
    simp only [Memory.wfFrom, Bool.and_eq_true, decide_eq_true_eq] at h'
    obtain ⟨_, h4⟩ := h'
    simp only [Memory.write]
    by_cases hak : a < k
    · rw [if_pos hak]
      split
      · rename_i hb
        have hk : k ≠ a := by omega
        simp only [Memory.read, if_neg hk]
        rw [hb]
        exact Memory.read_below m (k + 1) a h4 (by omega)
      · simp [Memory.read]
    · rw [if_neg hak]
      by_cases hEq : a = k
      · subst hEq
        rw [if_pos rfl]
        split
        · rename_i hb
          rw [hb]
          exact Memory.read_below m (a + 1) a h4 (by omega)
        · simp [Memory.read]
      · rw [if_neg hEq]
        have hk : k ≠ a := fun e => hEq e.symm
        simp only [Memory.read, if_neg hk]
        exact ih (k + 1) a b h4

/-- A write leaves every other byte alone. -/
theorem Memory.read_write_other (m : Memory) :
    ∀ (a a' : Nat) (b : Byte), a' ≠ a → Memory.read (Memory.write m a b) a' = Memory.read m a' := by
  induction m with
  | nil =>
    intro a a' b h
    unfold Memory.write
    split
    · rfl
    · simp [Memory.read, Ne.symm h]
  | cons c m ih =>
    obtain ⟨k, v⟩ := c
    intro a a' b h
    simp only [Memory.write]
    split
    · split
      · rfl
      · simp [Memory.read, Ne.symm h]
    · split
      · rename_i h1 h2
        subst h2
        split
        · simp [Memory.read, Ne.symm h]
        · simp [Memory.read, Ne.symm h]
      · simp only [Memory.read]
        split
        · rfl
        · exact ih a a' b h

/-- The two bytes of a half-word are different bytes of the window. -/
theorem offset_succ_ne (off : Offset) : (off + 1).toNat ≠ off.toNat := by
  have := off.isLt
  have one : (1 : Offset).toNat = 1 := rfl
  rw [BitVec.toNat_add, one]
  omega

/-- R102's half-word case: reading a half-word after writing it. -/
theorem Memory.readHalf_writeHalf_same (m : Memory) (off : Offset) (v : Half)
    (h : Memory.wf m = true) : Memory.readHalf (Memory.writeHalf m off v) off = v := by
  have h1 : Memory.wf (Memory.write m off.toNat (v.extractLsb' 0 8)) = true :=
    Memory.wf_write _ _ _ h off.isLt
  unfold Memory.readHalf Memory.writeHalf
  rw [Memory.read_write_same _ 0 _ _ h1,
    Memory.read_write_other _ _ _ _ (Ne.symm (offset_succ_ne off)),
    Memory.read_write_same _ 0 _ _ h]
  ext i hi
  simp only [BitVec.getElem_append, BitVec.getElem_extractLsb']
  split
  · simp [← BitVec.getLsbD_eq_getElem]
  · rename_i h8
    have : 8 + (i - 8) = i := by omega
    simp [this, ← BitVec.getLsbD_eq_getElem]

/-- A half-word write leaves every byte but its two alone. -/
theorem Memory.read_writeHalf_other (m : Memory) (off : Offset) (v : Half) (a : Nat)
    (h0 : a ≠ off.toNat) (h1 : a ≠ (off + 1).toNat) :
    Memory.read (Memory.writeHalf m off v) a = Memory.read m a := by
  unfold Memory.writeHalf
  rw [Memory.read_write_other _ _ _ _ h1, Memory.read_write_other _ _ _ _ h0]

end Sys2Proof.Machine
end

