-- ==== Sys2Proof/Laws/State.lean ====
section
/-! SUPPORT. One lemma per field per named update of State, each true by rfl where the update is atomic. -/

namespace Sys2Proof.Machine

variable (s : State)

/-! ## setHalf -/

@[simp] theorem State.setHalf_req (b : Bool) : (s.setHalf b).req = s.req := rfl
@[simp] theorem State.setHalf_argVal (b : Bool) : (s.setHalf b).argVal = s.argVal := rfl
@[simp] theorem State.setHalf_argMac (b : Bool) : (s.setHalf b).argMac = s.argMac := rfl
@[simp] theorem State.setHalf_ready (b : Bool) : (s.setHalf b).ready = s.ready := rfl
@[simp] theorem State.setHalf_halted (b : Bool) : (s.setHalf b).halted = s.halted := rfl
@[simp] theorem State.setHalf_outcome (b : Bool) : (s.setHalf b).outcome = s.outcome := rfl
@[simp] theorem State.setHalf_opst (b : Bool) : (s.setHalf b).opst = s.opst := rfl
@[simp] theorem State.setHalf_res (b : Bool) : (s.setHalf b).res = s.res := rfl
@[simp] theorem State.setHalf_lastCmd (b : Bool) : (s.setHalf b).lastCmd = s.lastCmd := rfl
@[simp] theorem State.setHalf_preImg (b : Bool) : (s.setHalf b).preImg = s.preImg := rfl
@[simp] theorem State.setHalf_postImg (b : Bool) : (s.setHalf b).postImg = s.postImg := rfl
@[simp] theorem State.setHalf_curOp (b : Bool) : (s.setHalf b).curOp = s.curOp := rfl
@[simp] theorem State.setHalf_curOff (b : Bool) : (s.setHalf b).curOff = s.curOff := rfl
@[simp] theorem State.setHalf_curIdx (b : Bool) : (s.setHalf b).curIdx = s.curIdx := rfl
@[simp] theorem State.setHalf_curCmd (b : Bool) : (s.setHalf b).curCmd = s.curCmd := rfl
@[simp] theorem State.setHalf_curAddr (b : Bool) : (s.setHalf b).curAddr = s.curAddr := rfl
@[simp] theorem State.setHalf_curData (b : Bool) : (s.setHalf b).curData = s.curData := rfl
@[simp] theorem State.setHalf_curVal (b : Bool) : (s.setHalf b).curVal = s.curVal := rfl
@[simp] theorem State.setHalf_curMac (b : Bool) : (s.setHalf b).curMac = s.curMac := rfl
@[simp] theorem State.setHalf_latchLo (b : Bool) : (s.setHalf b).latchLo = s.latchLo := rfl
@[simp] theorem State.setHalf_seqst (b : Bool) : (s.setHalf b).seqst = s.seqst := rfl
@[simp] theorem State.setHalf_cmdst (b : Bool) : (s.setHalf b).cmdst = s.cmdst := rfl
@[simp] theorem State.setHalf_cell (b : Bool) : (s.setHalf b).cell = s.cell := rfl
@[simp] theorem State.setHalf_half (b : Bool) : (s.setHalf b).half = b := rfl
@[simp] theorem State.setHalf_toSeen (b : Bool) : (s.setHalf b).toSeen = s.toSeen := rfl
@[simp] theorem State.setHalf_macReading (b : Bool) : (s.setHalf b).macReading = s.macReading := rfl
@[simp] theorem State.setHalf_params (b : Bool) : (s.setHalf b).params = s.params := rfl
@[simp] theorem State.setHalf_window (b : Bool) : (s.setHalf b).window = s.window := rfl
@[simp] theorem State.setHalf_device (b : Bool) : (s.setHalf b).device = s.device := rfl
@[simp] theorem State.setHalf_inputs (b : Bool) : (s.setHalf b).inputs = s.inputs := rfl
@[simp] theorem State.setHalf_trace (b : Bool) : (s.setHalf b).trace = s.trace := rfl

/-! ## setLatch -/

@[simp] theorem State.setLatch_req (v : Half) : (s.setLatch v).req = s.req := rfl
@[simp] theorem State.setLatch_argVal (v : Half) : (s.setLatch v).argVal = s.argVal := rfl
@[simp] theorem State.setLatch_argMac (v : Half) : (s.setLatch v).argMac = s.argMac := rfl
@[simp] theorem State.setLatch_ready (v : Half) : (s.setLatch v).ready = s.ready := rfl
@[simp] theorem State.setLatch_halted (v : Half) : (s.setLatch v).halted = s.halted := rfl
@[simp] theorem State.setLatch_outcome (v : Half) : (s.setLatch v).outcome = s.outcome := rfl
@[simp] theorem State.setLatch_opst (v : Half) : (s.setLatch v).opst = s.opst := rfl
@[simp] theorem State.setLatch_res (v : Half) : (s.setLatch v).res = s.res := rfl
@[simp] theorem State.setLatch_lastCmd (v : Half) : (s.setLatch v).lastCmd = s.lastCmd := rfl
@[simp] theorem State.setLatch_preImg (v : Half) : (s.setLatch v).preImg = s.preImg := rfl
@[simp] theorem State.setLatch_postImg (v : Half) : (s.setLatch v).postImg = s.postImg := rfl
@[simp] theorem State.setLatch_curOp (v : Half) : (s.setLatch v).curOp = s.curOp := rfl
@[simp] theorem State.setLatch_curOff (v : Half) : (s.setLatch v).curOff = s.curOff := rfl
@[simp] theorem State.setLatch_curIdx (v : Half) : (s.setLatch v).curIdx = s.curIdx := rfl
@[simp] theorem State.setLatch_curCmd (v : Half) : (s.setLatch v).curCmd = s.curCmd := rfl
@[simp] theorem State.setLatch_curAddr (v : Half) : (s.setLatch v).curAddr = s.curAddr := rfl
@[simp] theorem State.setLatch_curData (v : Half) : (s.setLatch v).curData = s.curData := rfl
@[simp] theorem State.setLatch_curVal (v : Half) : (s.setLatch v).curVal = s.curVal := rfl
@[simp] theorem State.setLatch_curMac (v : Half) : (s.setLatch v).curMac = s.curMac := rfl
@[simp] theorem State.setLatch_latchLo (v : Half) : (s.setLatch v).latchLo = v := rfl
@[simp] theorem State.setLatch_seqst (v : Half) : (s.setLatch v).seqst = s.seqst := rfl
@[simp] theorem State.setLatch_cmdst (v : Half) : (s.setLatch v).cmdst = s.cmdst := rfl
@[simp] theorem State.setLatch_cell (v : Half) : (s.setLatch v).cell = s.cell := rfl
@[simp] theorem State.setLatch_half (v : Half) : (s.setLatch v).half = s.half := rfl
@[simp] theorem State.setLatch_toSeen (v : Half) : (s.setLatch v).toSeen = s.toSeen := rfl
@[simp] theorem State.setLatch_macReading (v : Half) : (s.setLatch v).macReading = s.macReading := rfl
@[simp] theorem State.setLatch_params (v : Half) : (s.setLatch v).params = s.params := rfl
@[simp] theorem State.setLatch_window (v : Half) : (s.setLatch v).window = s.window := rfl
@[simp] theorem State.setLatch_device (v : Half) : (s.setLatch v).device = s.device := rfl
@[simp] theorem State.setLatch_inputs (v : Half) : (s.setLatch v).inputs = s.inputs := rfl
@[simp] theorem State.setLatch_trace (v : Half) : (s.setLatch v).trace = s.trace := rfl

/-! ## setCmdst -/

@[simp] theorem State.setCmdst_req (c : CmdSt) : (s.setCmdst c).req = s.req := rfl
@[simp] theorem State.setCmdst_argVal (c : CmdSt) : (s.setCmdst c).argVal = s.argVal := rfl
@[simp] theorem State.setCmdst_argMac (c : CmdSt) : (s.setCmdst c).argMac = s.argMac := rfl
@[simp] theorem State.setCmdst_ready (c : CmdSt) : (s.setCmdst c).ready = s.ready := rfl
@[simp] theorem State.setCmdst_halted (c : CmdSt) : (s.setCmdst c).halted = s.halted := rfl
@[simp] theorem State.setCmdst_outcome (c : CmdSt) : (s.setCmdst c).outcome = s.outcome := rfl
@[simp] theorem State.setCmdst_opst (c : CmdSt) : (s.setCmdst c).opst = s.opst := rfl
@[simp] theorem State.setCmdst_res (c : CmdSt) : (s.setCmdst c).res = s.res := rfl
@[simp] theorem State.setCmdst_lastCmd (c : CmdSt) : (s.setCmdst c).lastCmd = s.lastCmd := rfl
@[simp] theorem State.setCmdst_preImg (c : CmdSt) : (s.setCmdst c).preImg = s.preImg := rfl
@[simp] theorem State.setCmdst_postImg (c : CmdSt) : (s.setCmdst c).postImg = s.postImg := rfl
@[simp] theorem State.setCmdst_curOp (c : CmdSt) : (s.setCmdst c).curOp = s.curOp := rfl
@[simp] theorem State.setCmdst_curOff (c : CmdSt) : (s.setCmdst c).curOff = s.curOff := rfl
@[simp] theorem State.setCmdst_curIdx (c : CmdSt) : (s.setCmdst c).curIdx = s.curIdx := rfl
@[simp] theorem State.setCmdst_curCmd (c : CmdSt) : (s.setCmdst c).curCmd = s.curCmd := rfl
@[simp] theorem State.setCmdst_curAddr (c : CmdSt) : (s.setCmdst c).curAddr = s.curAddr := rfl
@[simp] theorem State.setCmdst_curData (c : CmdSt) : (s.setCmdst c).curData = s.curData := rfl
@[simp] theorem State.setCmdst_curVal (c : CmdSt) : (s.setCmdst c).curVal = s.curVal := rfl
@[simp] theorem State.setCmdst_curMac (c : CmdSt) : (s.setCmdst c).curMac = s.curMac := rfl
@[simp] theorem State.setCmdst_latchLo (c : CmdSt) : (s.setCmdst c).latchLo = s.latchLo := rfl
@[simp] theorem State.setCmdst_seqst (c : CmdSt) : (s.setCmdst c).seqst = s.seqst := rfl
@[simp] theorem State.setCmdst_cmdst (c : CmdSt) : (s.setCmdst c).cmdst = c := rfl
@[simp] theorem State.setCmdst_cell (c : CmdSt) : (s.setCmdst c).cell = s.cell := rfl
@[simp] theorem State.setCmdst_half (c : CmdSt) : (s.setCmdst c).half = s.half := rfl
@[simp] theorem State.setCmdst_toSeen (c : CmdSt) : (s.setCmdst c).toSeen = s.toSeen := rfl
@[simp] theorem State.setCmdst_macReading (c : CmdSt) : (s.setCmdst c).macReading = s.macReading := rfl
@[simp] theorem State.setCmdst_params (c : CmdSt) : (s.setCmdst c).params = s.params := rfl
@[simp] theorem State.setCmdst_window (c : CmdSt) : (s.setCmdst c).window = s.window := rfl
@[simp] theorem State.setCmdst_device (c : CmdSt) : (s.setCmdst c).device = s.device := rfl
@[simp] theorem State.setCmdst_inputs (c : CmdSt) : (s.setCmdst c).inputs = s.inputs := rfl
@[simp] theorem State.setCmdst_trace (c : CmdSt) : (s.setCmdst c).trace = s.trace := rfl

/-! ## setSeqst -/

@[simp] theorem State.setSeqst_req (q : SeqSt) : (s.setSeqst q).req = s.req := rfl
@[simp] theorem State.setSeqst_argVal (q : SeqSt) : (s.setSeqst q).argVal = s.argVal := rfl
@[simp] theorem State.setSeqst_argMac (q : SeqSt) : (s.setSeqst q).argMac = s.argMac := rfl
@[simp] theorem State.setSeqst_ready (q : SeqSt) : (s.setSeqst q).ready = s.ready := rfl
@[simp] theorem State.setSeqst_halted (q : SeqSt) : (s.setSeqst q).halted = s.halted := rfl
@[simp] theorem State.setSeqst_outcome (q : SeqSt) : (s.setSeqst q).outcome = s.outcome := rfl
@[simp] theorem State.setSeqst_opst (q : SeqSt) : (s.setSeqst q).opst = s.opst := rfl
@[simp] theorem State.setSeqst_res (q : SeqSt) : (s.setSeqst q).res = s.res := rfl
@[simp] theorem State.setSeqst_lastCmd (q : SeqSt) : (s.setSeqst q).lastCmd = s.lastCmd := rfl
@[simp] theorem State.setSeqst_preImg (q : SeqSt) : (s.setSeqst q).preImg = s.preImg := rfl
@[simp] theorem State.setSeqst_postImg (q : SeqSt) : (s.setSeqst q).postImg = s.postImg := rfl
@[simp] theorem State.setSeqst_curOp (q : SeqSt) : (s.setSeqst q).curOp = s.curOp := rfl
@[simp] theorem State.setSeqst_curOff (q : SeqSt) : (s.setSeqst q).curOff = s.curOff := rfl
@[simp] theorem State.setSeqst_curIdx (q : SeqSt) : (s.setSeqst q).curIdx = s.curIdx := rfl
@[simp] theorem State.setSeqst_curCmd (q : SeqSt) : (s.setSeqst q).curCmd = s.curCmd := rfl
@[simp] theorem State.setSeqst_curAddr (q : SeqSt) : (s.setSeqst q).curAddr = s.curAddr := rfl
@[simp] theorem State.setSeqst_curData (q : SeqSt) : (s.setSeqst q).curData = s.curData := rfl
@[simp] theorem State.setSeqst_curVal (q : SeqSt) : (s.setSeqst q).curVal = s.curVal := rfl
@[simp] theorem State.setSeqst_curMac (q : SeqSt) : (s.setSeqst q).curMac = s.curMac := rfl
@[simp] theorem State.setSeqst_latchLo (q : SeqSt) : (s.setSeqst q).latchLo = s.latchLo := rfl
@[simp] theorem State.setSeqst_seqst (q : SeqSt) : (s.setSeqst q).seqst = q := rfl
@[simp] theorem State.setSeqst_cmdst (q : SeqSt) : (s.setSeqst q).cmdst = s.cmdst := rfl
@[simp] theorem State.setSeqst_cell (q : SeqSt) : (s.setSeqst q).cell = s.cell := rfl
@[simp] theorem State.setSeqst_half (q : SeqSt) : (s.setSeqst q).half = s.half := rfl
@[simp] theorem State.setSeqst_toSeen (q : SeqSt) : (s.setSeqst q).toSeen = s.toSeen := rfl
@[simp] theorem State.setSeqst_macReading (q : SeqSt) : (s.setSeqst q).macReading = s.macReading := rfl
@[simp] theorem State.setSeqst_params (q : SeqSt) : (s.setSeqst q).params = s.params := rfl
@[simp] theorem State.setSeqst_window (q : SeqSt) : (s.setSeqst q).window = s.window := rfl
@[simp] theorem State.setSeqst_device (q : SeqSt) : (s.setSeqst q).device = s.device := rfl
@[simp] theorem State.setSeqst_inputs (q : SeqSt) : (s.setSeqst q).inputs = s.inputs := rfl
@[simp] theorem State.setSeqst_trace (q : SeqSt) : (s.setSeqst q).trace = s.trace := rfl

/-! ## setCell -/

@[simp] theorem State.setCell_req (c : CellIx) : (s.setCell c).req = s.req := rfl
@[simp] theorem State.setCell_argVal (c : CellIx) : (s.setCell c).argVal = s.argVal := rfl
@[simp] theorem State.setCell_argMac (c : CellIx) : (s.setCell c).argMac = s.argMac := rfl
@[simp] theorem State.setCell_ready (c : CellIx) : (s.setCell c).ready = s.ready := rfl
@[simp] theorem State.setCell_halted (c : CellIx) : (s.setCell c).halted = s.halted := rfl
@[simp] theorem State.setCell_outcome (c : CellIx) : (s.setCell c).outcome = s.outcome := rfl
@[simp] theorem State.setCell_opst (c : CellIx) : (s.setCell c).opst = s.opst := rfl
@[simp] theorem State.setCell_res (c : CellIx) : (s.setCell c).res = s.res := rfl
@[simp] theorem State.setCell_lastCmd (c : CellIx) : (s.setCell c).lastCmd = s.lastCmd := rfl
@[simp] theorem State.setCell_preImg (c : CellIx) : (s.setCell c).preImg = s.preImg := rfl
@[simp] theorem State.setCell_postImg (c : CellIx) : (s.setCell c).postImg = s.postImg := rfl
@[simp] theorem State.setCell_curOp (c : CellIx) : (s.setCell c).curOp = s.curOp := rfl
@[simp] theorem State.setCell_curOff (c : CellIx) : (s.setCell c).curOff = s.curOff := rfl
@[simp] theorem State.setCell_curIdx (c : CellIx) : (s.setCell c).curIdx = s.curIdx := rfl
@[simp] theorem State.setCell_curCmd (c : CellIx) : (s.setCell c).curCmd = s.curCmd := rfl
@[simp] theorem State.setCell_curAddr (c : CellIx) : (s.setCell c).curAddr = s.curAddr := rfl
@[simp] theorem State.setCell_curData (c : CellIx) : (s.setCell c).curData = s.curData := rfl
@[simp] theorem State.setCell_curVal (c : CellIx) : (s.setCell c).curVal = s.curVal := rfl
@[simp] theorem State.setCell_curMac (c : CellIx) : (s.setCell c).curMac = s.curMac := rfl
@[simp] theorem State.setCell_latchLo (c : CellIx) : (s.setCell c).latchLo = s.latchLo := rfl
@[simp] theorem State.setCell_seqst (c : CellIx) : (s.setCell c).seqst = s.seqst := rfl
@[simp] theorem State.setCell_cmdst (c : CellIx) : (s.setCell c).cmdst = s.cmdst := rfl
@[simp] theorem State.setCell_cell (c : CellIx) : (s.setCell c).cell = c := rfl
@[simp] theorem State.setCell_half (c : CellIx) : (s.setCell c).half = s.half := rfl
@[simp] theorem State.setCell_toSeen (c : CellIx) : (s.setCell c).toSeen = s.toSeen := rfl
@[simp] theorem State.setCell_macReading (c : CellIx) : (s.setCell c).macReading = s.macReading := rfl
@[simp] theorem State.setCell_params (c : CellIx) : (s.setCell c).params = s.params := rfl
@[simp] theorem State.setCell_window (c : CellIx) : (s.setCell c).window = s.window := rfl
@[simp] theorem State.setCell_device (c : CellIx) : (s.setCell c).device = s.device := rfl
@[simp] theorem State.setCell_inputs (c : CellIx) : (s.setCell c).inputs = s.inputs := rfl
@[simp] theorem State.setCell_trace (c : CellIx) : (s.setCell c).trace = s.trace := rfl

/-! ## setLastCmd -/

@[simp] theorem State.setLastCmd_req (v : Word) : (s.setLastCmd v).req = s.req := rfl
@[simp] theorem State.setLastCmd_argVal (v : Word) : (s.setLastCmd v).argVal = s.argVal := rfl
@[simp] theorem State.setLastCmd_argMac (v : Word) : (s.setLastCmd v).argMac = s.argMac := rfl
@[simp] theorem State.setLastCmd_ready (v : Word) : (s.setLastCmd v).ready = s.ready := rfl
@[simp] theorem State.setLastCmd_halted (v : Word) : (s.setLastCmd v).halted = s.halted := rfl
@[simp] theorem State.setLastCmd_outcome (v : Word) : (s.setLastCmd v).outcome = s.outcome := rfl
@[simp] theorem State.setLastCmd_opst (v : Word) : (s.setLastCmd v).opst = s.opst := rfl
@[simp] theorem State.setLastCmd_res (v : Word) : (s.setLastCmd v).res = s.res := rfl
@[simp] theorem State.setLastCmd_lastCmd (v : Word) : (s.setLastCmd v).lastCmd = v := rfl
@[simp] theorem State.setLastCmd_preImg (v : Word) : (s.setLastCmd v).preImg = s.preImg := rfl
@[simp] theorem State.setLastCmd_postImg (v : Word) : (s.setLastCmd v).postImg = s.postImg := rfl
@[simp] theorem State.setLastCmd_curOp (v : Word) : (s.setLastCmd v).curOp = s.curOp := rfl
@[simp] theorem State.setLastCmd_curOff (v : Word) : (s.setLastCmd v).curOff = s.curOff := rfl
@[simp] theorem State.setLastCmd_curIdx (v : Word) : (s.setLastCmd v).curIdx = s.curIdx := rfl
@[simp] theorem State.setLastCmd_curCmd (v : Word) : (s.setLastCmd v).curCmd = s.curCmd := rfl
@[simp] theorem State.setLastCmd_curAddr (v : Word) : (s.setLastCmd v).curAddr = s.curAddr := rfl
@[simp] theorem State.setLastCmd_curData (v : Word) : (s.setLastCmd v).curData = s.curData := rfl
@[simp] theorem State.setLastCmd_curVal (v : Word) : (s.setLastCmd v).curVal = s.curVal := rfl
@[simp] theorem State.setLastCmd_curMac (v : Word) : (s.setLastCmd v).curMac = s.curMac := rfl
@[simp] theorem State.setLastCmd_latchLo (v : Word) : (s.setLastCmd v).latchLo = s.latchLo := rfl
@[simp] theorem State.setLastCmd_seqst (v : Word) : (s.setLastCmd v).seqst = s.seqst := rfl
@[simp] theorem State.setLastCmd_cmdst (v : Word) : (s.setLastCmd v).cmdst = s.cmdst := rfl
@[simp] theorem State.setLastCmd_cell (v : Word) : (s.setLastCmd v).cell = s.cell := rfl
@[simp] theorem State.setLastCmd_half (v : Word) : (s.setLastCmd v).half = s.half := rfl
@[simp] theorem State.setLastCmd_toSeen (v : Word) : (s.setLastCmd v).toSeen = s.toSeen := rfl
@[simp] theorem State.setLastCmd_macReading (v : Word) : (s.setLastCmd v).macReading = s.macReading := rfl
@[simp] theorem State.setLastCmd_params (v : Word) : (s.setLastCmd v).params = s.params := rfl
@[simp] theorem State.setLastCmd_window (v : Word) : (s.setLastCmd v).window = s.window := rfl
@[simp] theorem State.setLastCmd_device (v : Word) : (s.setLastCmd v).device = s.device := rfl
@[simp] theorem State.setLastCmd_inputs (v : Word) : (s.setLastCmd v).inputs = s.inputs := rfl
@[simp] theorem State.setLastCmd_trace (v : Word) : (s.setLastCmd v).trace = s.trace := rfl

/-! ## setRes -/

@[simp] theorem State.setRes_req (v : Word) : (s.setRes v).req = s.req := rfl
@[simp] theorem State.setRes_argVal (v : Word) : (s.setRes v).argVal = s.argVal := rfl
@[simp] theorem State.setRes_argMac (v : Word) : (s.setRes v).argMac = s.argMac := rfl
@[simp] theorem State.setRes_ready (v : Word) : (s.setRes v).ready = s.ready := rfl
@[simp] theorem State.setRes_halted (v : Word) : (s.setRes v).halted = s.halted := rfl
@[simp] theorem State.setRes_outcome (v : Word) : (s.setRes v).outcome = s.outcome := rfl
@[simp] theorem State.setRes_opst (v : Word) : (s.setRes v).opst = s.opst := rfl
@[simp] theorem State.setRes_res (v : Word) : (s.setRes v).res = v := rfl
@[simp] theorem State.setRes_lastCmd (v : Word) : (s.setRes v).lastCmd = s.lastCmd := rfl
@[simp] theorem State.setRes_preImg (v : Word) : (s.setRes v).preImg = s.preImg := rfl
@[simp] theorem State.setRes_postImg (v : Word) : (s.setRes v).postImg = s.postImg := rfl
@[simp] theorem State.setRes_curOp (v : Word) : (s.setRes v).curOp = s.curOp := rfl
@[simp] theorem State.setRes_curOff (v : Word) : (s.setRes v).curOff = s.curOff := rfl
@[simp] theorem State.setRes_curIdx (v : Word) : (s.setRes v).curIdx = s.curIdx := rfl
@[simp] theorem State.setRes_curCmd (v : Word) : (s.setRes v).curCmd = s.curCmd := rfl
@[simp] theorem State.setRes_curAddr (v : Word) : (s.setRes v).curAddr = s.curAddr := rfl
@[simp] theorem State.setRes_curData (v : Word) : (s.setRes v).curData = s.curData := rfl
@[simp] theorem State.setRes_curVal (v : Word) : (s.setRes v).curVal = s.curVal := rfl
@[simp] theorem State.setRes_curMac (v : Word) : (s.setRes v).curMac = s.curMac := rfl
@[simp] theorem State.setRes_latchLo (v : Word) : (s.setRes v).latchLo = s.latchLo := rfl
@[simp] theorem State.setRes_seqst (v : Word) : (s.setRes v).seqst = s.seqst := rfl
@[simp] theorem State.setRes_cmdst (v : Word) : (s.setRes v).cmdst = s.cmdst := rfl
@[simp] theorem State.setRes_cell (v : Word) : (s.setRes v).cell = s.cell := rfl
@[simp] theorem State.setRes_half (v : Word) : (s.setRes v).half = s.half := rfl
@[simp] theorem State.setRes_toSeen (v : Word) : (s.setRes v).toSeen = s.toSeen := rfl
@[simp] theorem State.setRes_macReading (v : Word) : (s.setRes v).macReading = s.macReading := rfl
@[simp] theorem State.setRes_params (v : Word) : (s.setRes v).params = s.params := rfl
@[simp] theorem State.setRes_window (v : Word) : (s.setRes v).window = s.window := rfl
@[simp] theorem State.setRes_device (v : Word) : (s.setRes v).device = s.device := rfl
@[simp] theorem State.setRes_inputs (v : Word) : (s.setRes v).inputs = s.inputs := rfl
@[simp] theorem State.setRes_trace (v : Word) : (s.setRes v).trace = s.trace := rfl

/-! ## setTo -/

@[simp] theorem State.setTo_req (b : Bool) : (s.setTo b).req = s.req := rfl
@[simp] theorem State.setTo_argVal (b : Bool) : (s.setTo b).argVal = s.argVal := rfl
@[simp] theorem State.setTo_argMac (b : Bool) : (s.setTo b).argMac = s.argMac := rfl
@[simp] theorem State.setTo_ready (b : Bool) : (s.setTo b).ready = s.ready := rfl
@[simp] theorem State.setTo_halted (b : Bool) : (s.setTo b).halted = s.halted := rfl
@[simp] theorem State.setTo_outcome (b : Bool) : (s.setTo b).outcome = s.outcome := rfl
@[simp] theorem State.setTo_opst (b : Bool) : (s.setTo b).opst = s.opst := rfl
@[simp] theorem State.setTo_res (b : Bool) : (s.setTo b).res = s.res := rfl
@[simp] theorem State.setTo_lastCmd (b : Bool) : (s.setTo b).lastCmd = s.lastCmd := rfl
@[simp] theorem State.setTo_preImg (b : Bool) : (s.setTo b).preImg = s.preImg := rfl
@[simp] theorem State.setTo_postImg (b : Bool) : (s.setTo b).postImg = s.postImg := rfl
@[simp] theorem State.setTo_curOp (b : Bool) : (s.setTo b).curOp = s.curOp := rfl
@[simp] theorem State.setTo_curOff (b : Bool) : (s.setTo b).curOff = s.curOff := rfl
@[simp] theorem State.setTo_curIdx (b : Bool) : (s.setTo b).curIdx = s.curIdx := rfl
@[simp] theorem State.setTo_curCmd (b : Bool) : (s.setTo b).curCmd = s.curCmd := rfl
@[simp] theorem State.setTo_curAddr (b : Bool) : (s.setTo b).curAddr = s.curAddr := rfl
@[simp] theorem State.setTo_curData (b : Bool) : (s.setTo b).curData = s.curData := rfl
@[simp] theorem State.setTo_curVal (b : Bool) : (s.setTo b).curVal = s.curVal := rfl
@[simp] theorem State.setTo_curMac (b : Bool) : (s.setTo b).curMac = s.curMac := rfl
@[simp] theorem State.setTo_latchLo (b : Bool) : (s.setTo b).latchLo = s.latchLo := rfl
@[simp] theorem State.setTo_seqst (b : Bool) : (s.setTo b).seqst = s.seqst := rfl
@[simp] theorem State.setTo_cmdst (b : Bool) : (s.setTo b).cmdst = s.cmdst := rfl
@[simp] theorem State.setTo_cell (b : Bool) : (s.setTo b).cell = s.cell := rfl
@[simp] theorem State.setTo_half (b : Bool) : (s.setTo b).half = s.half := rfl
@[simp] theorem State.setTo_toSeen (b : Bool) : (s.setTo b).toSeen = b := rfl
@[simp] theorem State.setTo_macReading (b : Bool) : (s.setTo b).macReading = s.macReading := rfl
@[simp] theorem State.setTo_params (b : Bool) : (s.setTo b).params = s.params := rfl
@[simp] theorem State.setTo_window (b : Bool) : (s.setTo b).window = s.window := rfl
@[simp] theorem State.setTo_device (b : Bool) : (s.setTo b).device = s.device := rfl
@[simp] theorem State.setTo_inputs (b : Bool) : (s.setTo b).inputs = s.inputs := rfl
@[simp] theorem State.setTo_trace (b : Bool) : (s.setTo b).trace = s.trace := rfl

/-! ## setCurCmd -/

@[simp] theorem State.setCurCmd_req (c : Cmd) : (s.setCurCmd c).req = s.req := rfl
@[simp] theorem State.setCurCmd_argVal (c : Cmd) : (s.setCurCmd c).argVal = s.argVal := rfl
@[simp] theorem State.setCurCmd_argMac (c : Cmd) : (s.setCurCmd c).argMac = s.argMac := rfl
@[simp] theorem State.setCurCmd_ready (c : Cmd) : (s.setCurCmd c).ready = s.ready := rfl
@[simp] theorem State.setCurCmd_halted (c : Cmd) : (s.setCurCmd c).halted = s.halted := rfl
@[simp] theorem State.setCurCmd_outcome (c : Cmd) : (s.setCurCmd c).outcome = s.outcome := rfl
@[simp] theorem State.setCurCmd_opst (c : Cmd) : (s.setCurCmd c).opst = s.opst := rfl
@[simp] theorem State.setCurCmd_res (c : Cmd) : (s.setCurCmd c).res = s.res := rfl
@[simp] theorem State.setCurCmd_lastCmd (c : Cmd) : (s.setCurCmd c).lastCmd = s.lastCmd := rfl
@[simp] theorem State.setCurCmd_preImg (c : Cmd) : (s.setCurCmd c).preImg = s.preImg := rfl
@[simp] theorem State.setCurCmd_postImg (c : Cmd) : (s.setCurCmd c).postImg = s.postImg := rfl
@[simp] theorem State.setCurCmd_curOp (c : Cmd) : (s.setCurCmd c).curOp = s.curOp := rfl
@[simp] theorem State.setCurCmd_curOff (c : Cmd) : (s.setCurCmd c).curOff = s.curOff := rfl
@[simp] theorem State.setCurCmd_curIdx (c : Cmd) : (s.setCurCmd c).curIdx = s.curIdx := rfl
@[simp] theorem State.setCurCmd_curCmd (c : Cmd) : (s.setCurCmd c).curCmd = c := rfl
@[simp] theorem State.setCurCmd_curAddr (c : Cmd) : (s.setCurCmd c).curAddr = s.curAddr := rfl
@[simp] theorem State.setCurCmd_curData (c : Cmd) : (s.setCurCmd c).curData = s.curData := rfl
@[simp] theorem State.setCurCmd_curVal (c : Cmd) : (s.setCurCmd c).curVal = s.curVal := rfl
@[simp] theorem State.setCurCmd_curMac (c : Cmd) : (s.setCurCmd c).curMac = s.curMac := rfl
@[simp] theorem State.setCurCmd_latchLo (c : Cmd) : (s.setCurCmd c).latchLo = s.latchLo := rfl
@[simp] theorem State.setCurCmd_seqst (c : Cmd) : (s.setCurCmd c).seqst = s.seqst := rfl
@[simp] theorem State.setCurCmd_cmdst (c : Cmd) : (s.setCurCmd c).cmdst = s.cmdst := rfl
@[simp] theorem State.setCurCmd_cell (c : Cmd) : (s.setCurCmd c).cell = s.cell := rfl
@[simp] theorem State.setCurCmd_half (c : Cmd) : (s.setCurCmd c).half = s.half := rfl
@[simp] theorem State.setCurCmd_toSeen (c : Cmd) : (s.setCurCmd c).toSeen = s.toSeen := rfl
@[simp] theorem State.setCurCmd_macReading (c : Cmd) : (s.setCurCmd c).macReading = s.macReading := rfl
@[simp] theorem State.setCurCmd_params (c : Cmd) : (s.setCurCmd c).params = s.params := rfl
@[simp] theorem State.setCurCmd_window (c : Cmd) : (s.setCurCmd c).window = s.window := rfl
@[simp] theorem State.setCurCmd_device (c : Cmd) : (s.setCurCmd c).device = s.device := rfl
@[simp] theorem State.setCurCmd_inputs (c : Cmd) : (s.setCurCmd c).inputs = s.inputs := rfl
@[simp] theorem State.setCurCmd_trace (c : Cmd) : (s.setCurCmd c).trace = s.trace := rfl

/-! ## setCurAddr -/

@[simp] theorem State.setCurAddr_req (a : Byte) : (s.setCurAddr a).req = s.req := rfl
@[simp] theorem State.setCurAddr_argVal (a : Byte) : (s.setCurAddr a).argVal = s.argVal := rfl
@[simp] theorem State.setCurAddr_argMac (a : Byte) : (s.setCurAddr a).argMac = s.argMac := rfl
@[simp] theorem State.setCurAddr_ready (a : Byte) : (s.setCurAddr a).ready = s.ready := rfl
@[simp] theorem State.setCurAddr_halted (a : Byte) : (s.setCurAddr a).halted = s.halted := rfl
@[simp] theorem State.setCurAddr_outcome (a : Byte) : (s.setCurAddr a).outcome = s.outcome := rfl
@[simp] theorem State.setCurAddr_opst (a : Byte) : (s.setCurAddr a).opst = s.opst := rfl
@[simp] theorem State.setCurAddr_res (a : Byte) : (s.setCurAddr a).res = s.res := rfl
@[simp] theorem State.setCurAddr_lastCmd (a : Byte) : (s.setCurAddr a).lastCmd = s.lastCmd := rfl
@[simp] theorem State.setCurAddr_preImg (a : Byte) : (s.setCurAddr a).preImg = s.preImg := rfl
@[simp] theorem State.setCurAddr_postImg (a : Byte) : (s.setCurAddr a).postImg = s.postImg := rfl
@[simp] theorem State.setCurAddr_curOp (a : Byte) : (s.setCurAddr a).curOp = s.curOp := rfl
@[simp] theorem State.setCurAddr_curOff (a : Byte) : (s.setCurAddr a).curOff = s.curOff := rfl
@[simp] theorem State.setCurAddr_curIdx (a : Byte) : (s.setCurAddr a).curIdx = s.curIdx := rfl
@[simp] theorem State.setCurAddr_curCmd (a : Byte) : (s.setCurAddr a).curCmd = s.curCmd := rfl
@[simp] theorem State.setCurAddr_curAddr (a : Byte) : (s.setCurAddr a).curAddr = a := rfl
@[simp] theorem State.setCurAddr_curData (a : Byte) : (s.setCurAddr a).curData = s.curData := rfl
@[simp] theorem State.setCurAddr_curVal (a : Byte) : (s.setCurAddr a).curVal = s.curVal := rfl
@[simp] theorem State.setCurAddr_curMac (a : Byte) : (s.setCurAddr a).curMac = s.curMac := rfl
@[simp] theorem State.setCurAddr_latchLo (a : Byte) : (s.setCurAddr a).latchLo = s.latchLo := rfl
@[simp] theorem State.setCurAddr_seqst (a : Byte) : (s.setCurAddr a).seqst = s.seqst := rfl
@[simp] theorem State.setCurAddr_cmdst (a : Byte) : (s.setCurAddr a).cmdst = s.cmdst := rfl
@[simp] theorem State.setCurAddr_cell (a : Byte) : (s.setCurAddr a).cell = s.cell := rfl
@[simp] theorem State.setCurAddr_half (a : Byte) : (s.setCurAddr a).half = s.half := rfl
@[simp] theorem State.setCurAddr_toSeen (a : Byte) : (s.setCurAddr a).toSeen = s.toSeen := rfl
@[simp] theorem State.setCurAddr_macReading (a : Byte) : (s.setCurAddr a).macReading = s.macReading := rfl
@[simp] theorem State.setCurAddr_params (a : Byte) : (s.setCurAddr a).params = s.params := rfl
@[simp] theorem State.setCurAddr_window (a : Byte) : (s.setCurAddr a).window = s.window := rfl
@[simp] theorem State.setCurAddr_device (a : Byte) : (s.setCurAddr a).device = s.device := rfl
@[simp] theorem State.setCurAddr_inputs (a : Byte) : (s.setCurAddr a).inputs = s.inputs := rfl
@[simp] theorem State.setCurAddr_trace (a : Byte) : (s.setCurAddr a).trace = s.trace := rfl

/-! ## setCurData -/

@[simp] theorem State.setCurData_req (b : Byte) : (s.setCurData b).req = s.req := rfl
@[simp] theorem State.setCurData_argVal (b : Byte) : (s.setCurData b).argVal = s.argVal := rfl
@[simp] theorem State.setCurData_argMac (b : Byte) : (s.setCurData b).argMac = s.argMac := rfl
@[simp] theorem State.setCurData_ready (b : Byte) : (s.setCurData b).ready = s.ready := rfl
@[simp] theorem State.setCurData_halted (b : Byte) : (s.setCurData b).halted = s.halted := rfl
@[simp] theorem State.setCurData_outcome (b : Byte) : (s.setCurData b).outcome = s.outcome := rfl
@[simp] theorem State.setCurData_opst (b : Byte) : (s.setCurData b).opst = s.opst := rfl
@[simp] theorem State.setCurData_res (b : Byte) : (s.setCurData b).res = s.res := rfl
@[simp] theorem State.setCurData_lastCmd (b : Byte) : (s.setCurData b).lastCmd = s.lastCmd := rfl
@[simp] theorem State.setCurData_preImg (b : Byte) : (s.setCurData b).preImg = s.preImg := rfl
@[simp] theorem State.setCurData_postImg (b : Byte) : (s.setCurData b).postImg = s.postImg := rfl
@[simp] theorem State.setCurData_curOp (b : Byte) : (s.setCurData b).curOp = s.curOp := rfl
@[simp] theorem State.setCurData_curOff (b : Byte) : (s.setCurData b).curOff = s.curOff := rfl
@[simp] theorem State.setCurData_curIdx (b : Byte) : (s.setCurData b).curIdx = s.curIdx := rfl
@[simp] theorem State.setCurData_curCmd (b : Byte) : (s.setCurData b).curCmd = s.curCmd := rfl
@[simp] theorem State.setCurData_curAddr (b : Byte) : (s.setCurData b).curAddr = s.curAddr := rfl
@[simp] theorem State.setCurData_curData (b : Byte) : (s.setCurData b).curData = b := rfl
@[simp] theorem State.setCurData_curVal (b : Byte) : (s.setCurData b).curVal = s.curVal := rfl
@[simp] theorem State.setCurData_curMac (b : Byte) : (s.setCurData b).curMac = s.curMac := rfl
@[simp] theorem State.setCurData_latchLo (b : Byte) : (s.setCurData b).latchLo = s.latchLo := rfl
@[simp] theorem State.setCurData_seqst (b : Byte) : (s.setCurData b).seqst = s.seqst := rfl
@[simp] theorem State.setCurData_cmdst (b : Byte) : (s.setCurData b).cmdst = s.cmdst := rfl
@[simp] theorem State.setCurData_cell (b : Byte) : (s.setCurData b).cell = s.cell := rfl
@[simp] theorem State.setCurData_half (b : Byte) : (s.setCurData b).half = s.half := rfl
@[simp] theorem State.setCurData_toSeen (b : Byte) : (s.setCurData b).toSeen = s.toSeen := rfl
@[simp] theorem State.setCurData_macReading (b : Byte) : (s.setCurData b).macReading = s.macReading := rfl
@[simp] theorem State.setCurData_params (b : Byte) : (s.setCurData b).params = s.params := rfl
@[simp] theorem State.setCurData_window (b : Byte) : (s.setCurData b).window = s.window := rfl
@[simp] theorem State.setCurData_device (b : Byte) : (s.setCurData b).device = s.device := rfl
@[simp] theorem State.setCurData_inputs (b : Byte) : (s.setCurData b).inputs = s.inputs := rfl
@[simp] theorem State.setCurData_trace (b : Byte) : (s.setCurData b).trace = s.trace := rfl

/-! ## setMacReading -/

@[simp] theorem State.setMacReading_req (b : Bool) : (s.setMacReading b).req = s.req := rfl
@[simp] theorem State.setMacReading_argVal (b : Bool) : (s.setMacReading b).argVal = s.argVal := rfl
@[simp] theorem State.setMacReading_argMac (b : Bool) : (s.setMacReading b).argMac = s.argMac := rfl
@[simp] theorem State.setMacReading_ready (b : Bool) : (s.setMacReading b).ready = s.ready := rfl
@[simp] theorem State.setMacReading_halted (b : Bool) : (s.setMacReading b).halted = s.halted := rfl
@[simp] theorem State.setMacReading_outcome (b : Bool) : (s.setMacReading b).outcome = s.outcome := rfl
@[simp] theorem State.setMacReading_opst (b : Bool) : (s.setMacReading b).opst = s.opst := rfl
@[simp] theorem State.setMacReading_res (b : Bool) : (s.setMacReading b).res = s.res := rfl
@[simp] theorem State.setMacReading_lastCmd (b : Bool) : (s.setMacReading b).lastCmd = s.lastCmd := rfl
@[simp] theorem State.setMacReading_preImg (b : Bool) : (s.setMacReading b).preImg = s.preImg := rfl
@[simp] theorem State.setMacReading_postImg (b : Bool) : (s.setMacReading b).postImg = s.postImg := rfl
@[simp] theorem State.setMacReading_curOp (b : Bool) : (s.setMacReading b).curOp = s.curOp := rfl
@[simp] theorem State.setMacReading_curOff (b : Bool) : (s.setMacReading b).curOff = s.curOff := rfl
@[simp] theorem State.setMacReading_curIdx (b : Bool) : (s.setMacReading b).curIdx = s.curIdx := rfl
@[simp] theorem State.setMacReading_curCmd (b : Bool) : (s.setMacReading b).curCmd = s.curCmd := rfl
@[simp] theorem State.setMacReading_curAddr (b : Bool) : (s.setMacReading b).curAddr = s.curAddr := rfl
@[simp] theorem State.setMacReading_curData (b : Bool) : (s.setMacReading b).curData = s.curData := rfl
@[simp] theorem State.setMacReading_curVal (b : Bool) : (s.setMacReading b).curVal = s.curVal := rfl
@[simp] theorem State.setMacReading_curMac (b : Bool) : (s.setMacReading b).curMac = s.curMac := rfl
@[simp] theorem State.setMacReading_latchLo (b : Bool) : (s.setMacReading b).latchLo = s.latchLo := rfl
@[simp] theorem State.setMacReading_seqst (b : Bool) : (s.setMacReading b).seqst = s.seqst := rfl
@[simp] theorem State.setMacReading_cmdst (b : Bool) : (s.setMacReading b).cmdst = s.cmdst := rfl
@[simp] theorem State.setMacReading_cell (b : Bool) : (s.setMacReading b).cell = s.cell := rfl
@[simp] theorem State.setMacReading_half (b : Bool) : (s.setMacReading b).half = s.half := rfl
@[simp] theorem State.setMacReading_toSeen (b : Bool) : (s.setMacReading b).toSeen = s.toSeen := rfl
@[simp] theorem State.setMacReading_macReading (b : Bool) : (s.setMacReading b).macReading = b := rfl
@[simp] theorem State.setMacReading_params (b : Bool) : (s.setMacReading b).params = s.params := rfl
@[simp] theorem State.setMacReading_window (b : Bool) : (s.setMacReading b).window = s.window := rfl
@[simp] theorem State.setMacReading_device (b : Bool) : (s.setMacReading b).device = s.device := rfl
@[simp] theorem State.setMacReading_inputs (b : Bool) : (s.setMacReading b).inputs = s.inputs := rfl
@[simp] theorem State.setMacReading_trace (b : Bool) : (s.setMacReading b).trace = s.trace := rfl

/-! ## setPre -/

@[simp] theorem State.setPre_req (c : CellIx) (b : Byte) : (s.setPre c b).req = s.req := rfl
@[simp] theorem State.setPre_argVal (c : CellIx) (b : Byte) : (s.setPre c b).argVal = s.argVal := rfl
@[simp] theorem State.setPre_argMac (c : CellIx) (b : Byte) : (s.setPre c b).argMac = s.argMac := rfl
@[simp] theorem State.setPre_ready (c : CellIx) (b : Byte) : (s.setPre c b).ready = s.ready := rfl
@[simp] theorem State.setPre_halted (c : CellIx) (b : Byte) : (s.setPre c b).halted = s.halted := rfl
@[simp] theorem State.setPre_outcome (c : CellIx) (b : Byte) : (s.setPre c b).outcome = s.outcome := rfl
@[simp] theorem State.setPre_opst (c : CellIx) (b : Byte) : (s.setPre c b).opst = s.opst := rfl
@[simp] theorem State.setPre_res (c : CellIx) (b : Byte) : (s.setPre c b).res = s.res := rfl
@[simp] theorem State.setPre_lastCmd (c : CellIx) (b : Byte) : (s.setPre c b).lastCmd = s.lastCmd := rfl
@[simp] theorem State.setPre_preImg (c : CellIx) (b : Byte) : (s.setPre c b).preImg = s.preImg.set c.toNat b c.isLt := rfl
@[simp] theorem State.setPre_postImg (c : CellIx) (b : Byte) : (s.setPre c b).postImg = s.postImg := rfl
@[simp] theorem State.setPre_curOp (c : CellIx) (b : Byte) : (s.setPre c b).curOp = s.curOp := rfl
@[simp] theorem State.setPre_curOff (c : CellIx) (b : Byte) : (s.setPre c b).curOff = s.curOff := rfl
@[simp] theorem State.setPre_curIdx (c : CellIx) (b : Byte) : (s.setPre c b).curIdx = s.curIdx := rfl
@[simp] theorem State.setPre_curCmd (c : CellIx) (b : Byte) : (s.setPre c b).curCmd = s.curCmd := rfl
@[simp] theorem State.setPre_curAddr (c : CellIx) (b : Byte) : (s.setPre c b).curAddr = s.curAddr := rfl
@[simp] theorem State.setPre_curData (c : CellIx) (b : Byte) : (s.setPre c b).curData = s.curData := rfl
@[simp] theorem State.setPre_curVal (c : CellIx) (b : Byte) : (s.setPre c b).curVal = s.curVal := rfl
@[simp] theorem State.setPre_curMac (c : CellIx) (b : Byte) : (s.setPre c b).curMac = s.curMac := rfl
@[simp] theorem State.setPre_latchLo (c : CellIx) (b : Byte) : (s.setPre c b).latchLo = s.latchLo := rfl
@[simp] theorem State.setPre_seqst (c : CellIx) (b : Byte) : (s.setPre c b).seqst = s.seqst := rfl
@[simp] theorem State.setPre_cmdst (c : CellIx) (b : Byte) : (s.setPre c b).cmdst = s.cmdst := rfl
@[simp] theorem State.setPre_cell (c : CellIx) (b : Byte) : (s.setPre c b).cell = s.cell := rfl
@[simp] theorem State.setPre_half (c : CellIx) (b : Byte) : (s.setPre c b).half = s.half := rfl
@[simp] theorem State.setPre_toSeen (c : CellIx) (b : Byte) : (s.setPre c b).toSeen = s.toSeen := rfl
@[simp] theorem State.setPre_macReading (c : CellIx) (b : Byte) : (s.setPre c b).macReading = s.macReading := rfl
@[simp] theorem State.setPre_params (c : CellIx) (b : Byte) : (s.setPre c b).params = s.params := rfl
@[simp] theorem State.setPre_window (c : CellIx) (b : Byte) : (s.setPre c b).window = s.window := rfl
@[simp] theorem State.setPre_device (c : CellIx) (b : Byte) : (s.setPre c b).device = s.device := rfl
@[simp] theorem State.setPre_inputs (c : CellIx) (b : Byte) : (s.setPre c b).inputs = s.inputs := rfl
@[simp] theorem State.setPre_trace (c : CellIx) (b : Byte) : (s.setPre c b).trace = s.trace := rfl

/-! ## setPost -/

@[simp] theorem State.setPost_req (c : CellIx) (b : Byte) : (s.setPost c b).req = s.req := rfl
@[simp] theorem State.setPost_argVal (c : CellIx) (b : Byte) : (s.setPost c b).argVal = s.argVal := rfl
@[simp] theorem State.setPost_argMac (c : CellIx) (b : Byte) : (s.setPost c b).argMac = s.argMac := rfl
@[simp] theorem State.setPost_ready (c : CellIx) (b : Byte) : (s.setPost c b).ready = s.ready := rfl
@[simp] theorem State.setPost_halted (c : CellIx) (b : Byte) : (s.setPost c b).halted = s.halted := rfl
@[simp] theorem State.setPost_outcome (c : CellIx) (b : Byte) : (s.setPost c b).outcome = s.outcome := rfl
@[simp] theorem State.setPost_opst (c : CellIx) (b : Byte) : (s.setPost c b).opst = s.opst := rfl
@[simp] theorem State.setPost_res (c : CellIx) (b : Byte) : (s.setPost c b).res = s.res := rfl
@[simp] theorem State.setPost_lastCmd (c : CellIx) (b : Byte) : (s.setPost c b).lastCmd = s.lastCmd := rfl
@[simp] theorem State.setPost_preImg (c : CellIx) (b : Byte) : (s.setPost c b).preImg = s.preImg := rfl
@[simp] theorem State.setPost_postImg (c : CellIx) (b : Byte) : (s.setPost c b).postImg = s.postImg.set c.toNat b c.isLt := rfl
@[simp] theorem State.setPost_curOp (c : CellIx) (b : Byte) : (s.setPost c b).curOp = s.curOp := rfl
@[simp] theorem State.setPost_curOff (c : CellIx) (b : Byte) : (s.setPost c b).curOff = s.curOff := rfl
@[simp] theorem State.setPost_curIdx (c : CellIx) (b : Byte) : (s.setPost c b).curIdx = s.curIdx := rfl
@[simp] theorem State.setPost_curCmd (c : CellIx) (b : Byte) : (s.setPost c b).curCmd = s.curCmd := rfl
@[simp] theorem State.setPost_curAddr (c : CellIx) (b : Byte) : (s.setPost c b).curAddr = s.curAddr := rfl
@[simp] theorem State.setPost_curData (c : CellIx) (b : Byte) : (s.setPost c b).curData = s.curData := rfl
@[simp] theorem State.setPost_curVal (c : CellIx) (b : Byte) : (s.setPost c b).curVal = s.curVal := rfl
@[simp] theorem State.setPost_curMac (c : CellIx) (b : Byte) : (s.setPost c b).curMac = s.curMac := rfl
@[simp] theorem State.setPost_latchLo (c : CellIx) (b : Byte) : (s.setPost c b).latchLo = s.latchLo := rfl
@[simp] theorem State.setPost_seqst (c : CellIx) (b : Byte) : (s.setPost c b).seqst = s.seqst := rfl
@[simp] theorem State.setPost_cmdst (c : CellIx) (b : Byte) : (s.setPost c b).cmdst = s.cmdst := rfl
@[simp] theorem State.setPost_cell (c : CellIx) (b : Byte) : (s.setPost c b).cell = s.cell := rfl
@[simp] theorem State.setPost_half (c : CellIx) (b : Byte) : (s.setPost c b).half = s.half := rfl
@[simp] theorem State.setPost_toSeen (c : CellIx) (b : Byte) : (s.setPost c b).toSeen = s.toSeen := rfl
@[simp] theorem State.setPost_macReading (c : CellIx) (b : Byte) : (s.setPost c b).macReading = s.macReading := rfl
@[simp] theorem State.setPost_params (c : CellIx) (b : Byte) : (s.setPost c b).params = s.params := rfl
@[simp] theorem State.setPost_window (c : CellIx) (b : Byte) : (s.setPost c b).window = s.window := rfl
@[simp] theorem State.setPost_device (c : CellIx) (b : Byte) : (s.setPost c b).device = s.device := rfl
@[simp] theorem State.setPost_inputs (c : CellIx) (b : Byte) : (s.setPost c b).inputs = s.inputs := rfl
@[simp] theorem State.setPost_trace (c : CellIx) (b : Byte) : (s.setPost c b).trace = s.trace := rfl

/-! ## portRead -/

@[simp] theorem State.portRead_req (o : Offset) : (s.portRead o).req = s.req := rfl
@[simp] theorem State.portRead_argVal (o : Offset) : (s.portRead o).argVal = s.argVal := rfl
@[simp] theorem State.portRead_argMac (o : Offset) : (s.portRead o).argMac = s.argMac := rfl
@[simp] theorem State.portRead_ready (o : Offset) : (s.portRead o).ready = s.ready := rfl
@[simp] theorem State.portRead_halted (o : Offset) : (s.portRead o).halted = s.halted := rfl
@[simp] theorem State.portRead_outcome (o : Offset) : (s.portRead o).outcome = s.outcome := rfl
@[simp] theorem State.portRead_opst (o : Offset) : (s.portRead o).opst = s.opst := rfl
@[simp] theorem State.portRead_res (o : Offset) : (s.portRead o).res = s.res := rfl
@[simp] theorem State.portRead_lastCmd (o : Offset) : (s.portRead o).lastCmd = s.lastCmd := rfl
@[simp] theorem State.portRead_preImg (o : Offset) : (s.portRead o).preImg = s.preImg := rfl
@[simp] theorem State.portRead_postImg (o : Offset) : (s.portRead o).postImg = s.postImg := rfl
@[simp] theorem State.portRead_curOp (o : Offset) : (s.portRead o).curOp = s.curOp := rfl
@[simp] theorem State.portRead_curOff (o : Offset) : (s.portRead o).curOff = s.curOff := rfl
@[simp] theorem State.portRead_curIdx (o : Offset) : (s.portRead o).curIdx = s.curIdx := rfl
@[simp] theorem State.portRead_curCmd (o : Offset) : (s.portRead o).curCmd = s.curCmd := rfl
@[simp] theorem State.portRead_curAddr (o : Offset) : (s.portRead o).curAddr = s.curAddr := rfl
@[simp] theorem State.portRead_curData (o : Offset) : (s.portRead o).curData = s.curData := rfl
@[simp] theorem State.portRead_curVal (o : Offset) : (s.portRead o).curVal = s.curVal := rfl
@[simp] theorem State.portRead_curMac (o : Offset) : (s.portRead o).curMac = s.curMac := rfl
@[simp] theorem State.portRead_latchLo (o : Offset) : (s.portRead o).latchLo = s.latchLo := rfl
@[simp] theorem State.portRead_seqst (o : Offset) : (s.portRead o).seqst = s.seqst := rfl
@[simp] theorem State.portRead_cmdst (o : Offset) : (s.portRead o).cmdst = s.cmdst := rfl
@[simp] theorem State.portRead_cell (o : Offset) : (s.portRead o).cell = s.cell := rfl
@[simp] theorem State.portRead_half (o : Offset) : (s.portRead o).half = s.half := rfl
@[simp] theorem State.portRead_toSeen (o : Offset) : (s.portRead o).toSeen = s.toSeen := rfl
@[simp] theorem State.portRead_macReading (o : Offset) : (s.portRead o).macReading = s.macReading := rfl
@[simp] theorem State.portRead_params (o : Offset) : (s.portRead o).params = s.params := rfl
@[simp] theorem State.portRead_window (o : Offset) : (s.portRead o).window = s.window := rfl
@[simp] theorem State.portRead_device (o : Offset) : (s.portRead o).device = s.device.afterRead s.params o := rfl
@[simp] theorem State.portRead_inputs (o : Offset) : (s.portRead o).inputs = s.inputs := rfl
@[simp] theorem State.portRead_trace (o : Offset) : (s.portRead o).trace = s.trace ++ [.read o (s.readValue o)] := rfl

/-! ## portWrite -/

@[simp] theorem State.portWrite_req (o : Offset) (v : Half) : (s.portWrite o v).req = s.req := rfl
@[simp] theorem State.portWrite_argVal (o : Offset) (v : Half) : (s.portWrite o v).argVal = s.argVal := rfl
@[simp] theorem State.portWrite_argMac (o : Offset) (v : Half) : (s.portWrite o v).argMac = s.argMac := rfl
@[simp] theorem State.portWrite_ready (o : Offset) (v : Half) : (s.portWrite o v).ready = s.ready := rfl
@[simp] theorem State.portWrite_halted (o : Offset) (v : Half) : (s.portWrite o v).halted = s.halted := rfl
@[simp] theorem State.portWrite_outcome (o : Offset) (v : Half) : (s.portWrite o v).outcome = s.outcome := rfl
@[simp] theorem State.portWrite_opst (o : Offset) (v : Half) : (s.portWrite o v).opst = s.opst := rfl
@[simp] theorem State.portWrite_res (o : Offset) (v : Half) : (s.portWrite o v).res = s.res := rfl
@[simp] theorem State.portWrite_lastCmd (o : Offset) (v : Half) : (s.portWrite o v).lastCmd = s.lastCmd := rfl
@[simp] theorem State.portWrite_preImg (o : Offset) (v : Half) : (s.portWrite o v).preImg = s.preImg := rfl
@[simp] theorem State.portWrite_postImg (o : Offset) (v : Half) : (s.portWrite o v).postImg = s.postImg := rfl
@[simp] theorem State.portWrite_curOp (o : Offset) (v : Half) : (s.portWrite o v).curOp = s.curOp := rfl
@[simp] theorem State.portWrite_curOff (o : Offset) (v : Half) : (s.portWrite o v).curOff = s.curOff := rfl
@[simp] theorem State.portWrite_curIdx (o : Offset) (v : Half) : (s.portWrite o v).curIdx = s.curIdx := rfl
@[simp] theorem State.portWrite_curCmd (o : Offset) (v : Half) : (s.portWrite o v).curCmd = s.curCmd := rfl
@[simp] theorem State.portWrite_curAddr (o : Offset) (v : Half) : (s.portWrite o v).curAddr = s.curAddr := rfl
@[simp] theorem State.portWrite_curData (o : Offset) (v : Half) : (s.portWrite o v).curData = s.curData := rfl
@[simp] theorem State.portWrite_curVal (o : Offset) (v : Half) : (s.portWrite o v).curVal = s.curVal := rfl
@[simp] theorem State.portWrite_curMac (o : Offset) (v : Half) : (s.portWrite o v).curMac = s.curMac := rfl
@[simp] theorem State.portWrite_latchLo (o : Offset) (v : Half) : (s.portWrite o v).latchLo = s.latchLo := rfl
@[simp] theorem State.portWrite_seqst (o : Offset) (v : Half) : (s.portWrite o v).seqst = s.seqst := rfl
@[simp] theorem State.portWrite_cmdst (o : Offset) (v : Half) : (s.portWrite o v).cmdst = s.cmdst := rfl
@[simp] theorem State.portWrite_cell (o : Offset) (v : Half) : (s.portWrite o v).cell = s.cell := rfl
@[simp] theorem State.portWrite_half (o : Offset) (v : Half) : (s.portWrite o v).half = s.half := rfl
@[simp] theorem State.portWrite_toSeen (o : Offset) (v : Half) : (s.portWrite o v).toSeen = s.toSeen := rfl
@[simp] theorem State.portWrite_macReading (o : Offset) (v : Half) : (s.portWrite o v).macReading = s.macReading := rfl
@[simp] theorem State.portWrite_params (o : Offset) (v : Half) : (s.portWrite o v).params = s.params := rfl
@[simp] theorem State.portWrite_window (o : Offset) (v : Half) : (s.portWrite o v).window = Memory.writeHalf s.window o v := rfl
@[simp] theorem State.portWrite_device (o : Offset) (v : Half) : (s.portWrite o v).device = s.device.afterWrite s.params o v := rfl
@[simp] theorem State.portWrite_inputs (o : Offset) (v : Half) : (s.portWrite o v).inputs = s.inputs := rfl
@[simp] theorem State.portWrite_trace (o : Offset) (v : Half) : (s.portWrite o v).trace = s.trace ++ [.write o v] := rfl

/-! ## writeWord -/

@[simp] theorem State.writeWord_req (o : Offset) (v : Word) : (s.writeWord o v).req = s.req := by simp [State.writeWord]
@[simp] theorem State.writeWord_argVal (o : Offset) (v : Word) : (s.writeWord o v).argVal = s.argVal := by simp [State.writeWord]
@[simp] theorem State.writeWord_argMac (o : Offset) (v : Word) : (s.writeWord o v).argMac = s.argMac := by simp [State.writeWord]
@[simp] theorem State.writeWord_ready (o : Offset) (v : Word) : (s.writeWord o v).ready = s.ready := by simp [State.writeWord]
@[simp] theorem State.writeWord_halted (o : Offset) (v : Word) : (s.writeWord o v).halted = s.halted := by simp [State.writeWord]
@[simp] theorem State.writeWord_outcome (o : Offset) (v : Word) : (s.writeWord o v).outcome = s.outcome := by simp [State.writeWord]
@[simp] theorem State.writeWord_opst (o : Offset) (v : Word) : (s.writeWord o v).opst = s.opst := by simp [State.writeWord]
@[simp] theorem State.writeWord_res (o : Offset) (v : Word) : (s.writeWord o v).res = s.res := by simp [State.writeWord]
@[simp] theorem State.writeWord_lastCmd (o : Offset) (v : Word) : (s.writeWord o v).lastCmd = s.lastCmd := by simp [State.writeWord]
@[simp] theorem State.writeWord_preImg (o : Offset) (v : Word) : (s.writeWord o v).preImg = s.preImg := by simp [State.writeWord]
@[simp] theorem State.writeWord_postImg (o : Offset) (v : Word) : (s.writeWord o v).postImg = s.postImg := by simp [State.writeWord]
@[simp] theorem State.writeWord_curOp (o : Offset) (v : Word) : (s.writeWord o v).curOp = s.curOp := by simp [State.writeWord]
@[simp] theorem State.writeWord_curOff (o : Offset) (v : Word) : (s.writeWord o v).curOff = s.curOff := by simp [State.writeWord]
@[simp] theorem State.writeWord_curIdx (o : Offset) (v : Word) : (s.writeWord o v).curIdx = s.curIdx := by simp [State.writeWord]
@[simp] theorem State.writeWord_curCmd (o : Offset) (v : Word) : (s.writeWord o v).curCmd = s.curCmd := by simp [State.writeWord]
@[simp] theorem State.writeWord_curAddr (o : Offset) (v : Word) : (s.writeWord o v).curAddr = s.curAddr := by simp [State.writeWord]
@[simp] theorem State.writeWord_curData (o : Offset) (v : Word) : (s.writeWord o v).curData = s.curData := by simp [State.writeWord]
@[simp] theorem State.writeWord_curVal (o : Offset) (v : Word) : (s.writeWord o v).curVal = s.curVal := by simp [State.writeWord]
@[simp] theorem State.writeWord_curMac (o : Offset) (v : Word) : (s.writeWord o v).curMac = s.curMac := by simp [State.writeWord]
@[simp] theorem State.writeWord_latchLo (o : Offset) (v : Word) : (s.writeWord o v).latchLo = s.latchLo := by simp [State.writeWord]
@[simp] theorem State.writeWord_seqst (o : Offset) (v : Word) : (s.writeWord o v).seqst = s.seqst := by simp [State.writeWord]
@[simp] theorem State.writeWord_cmdst (o : Offset) (v : Word) : (s.writeWord o v).cmdst = s.cmdst := by simp [State.writeWord]
@[simp] theorem State.writeWord_cell (o : Offset) (v : Word) : (s.writeWord o v).cell = s.cell := by simp [State.writeWord]
@[simp] theorem State.writeWord_half (o : Offset) (v : Word) : (s.writeWord o v).half = s.half := by simp [State.writeWord]
@[simp] theorem State.writeWord_toSeen (o : Offset) (v : Word) : (s.writeWord o v).toSeen = s.toSeen := by simp [State.writeWord]
@[simp] theorem State.writeWord_macReading (o : Offset) (v : Word) : (s.writeWord o v).macReading = s.macReading := by simp [State.writeWord]
@[simp] theorem State.writeWord_params (o : Offset) (v : Word) : (s.writeWord o v).params = s.params := by simp [State.writeWord]
@[simp] theorem State.writeWord_window (o : Offset) (v : Word) : (s.writeWord o v).window = Memory.writeHalf (Memory.writeHalf s.window o (loHalf v)) (o + 2) (hiHalf v) := by simp [State.writeWord]
@[simp] theorem State.writeWord_device (o : Offset) (v : Word) : (s.writeWord o v).device = (s.device.afterWrite s.params o (loHalf v)).afterWrite s.params (o + 2) (hiHalf v) := by simp [State.writeWord]
@[simp] theorem State.writeWord_inputs (o : Offset) (v : Word) : (s.writeWord o v).inputs = s.inputs := by simp [State.writeWord]
@[simp] theorem State.writeWord_trace (o : Offset) (v : Word) : (s.writeWord o v).trace = s.trace ++ [.write o (loHalf v)] ++ [.write (o + 2) (hiHalf v)] := by simp [State.writeWord]

/-! ## finish -/

@[simp] theorem State.finish_req (c : OutcomeCode) : (s.finish c).req = s.req := rfl
@[simp] theorem State.finish_argVal (c : OutcomeCode) : (s.finish c).argVal = s.argVal := rfl
@[simp] theorem State.finish_argMac (c : OutcomeCode) : (s.finish c).argMac = s.argMac := rfl
@[simp] theorem State.finish_ready (c : OutcomeCode) : (s.finish c).ready = if c = .fatalTimeout then false else true := rfl
@[simp] theorem State.finish_halted (c : OutcomeCode) : (s.finish c).halted = if c = .fatalTimeout then true else s.halted := rfl
@[simp] theorem State.finish_outcome (c : OutcomeCode) : (s.finish c).outcome = c := rfl
@[simp] theorem State.finish_opst (c : OutcomeCode) : (s.finish c).opst = 0 := rfl
@[simp] theorem State.finish_res (c : OutcomeCode) : (s.finish c).res = s.res := rfl
@[simp] theorem State.finish_lastCmd (c : OutcomeCode) : (s.finish c).lastCmd = s.lastCmd := rfl
@[simp] theorem State.finish_preImg (c : OutcomeCode) : (s.finish c).preImg = s.preImg := rfl
@[simp] theorem State.finish_postImg (c : OutcomeCode) : (s.finish c).postImg = s.postImg := rfl
@[simp] theorem State.finish_curOp (c : OutcomeCode) : (s.finish c).curOp = s.curOp := rfl
@[simp] theorem State.finish_curOff (c : OutcomeCode) : (s.finish c).curOff = s.curOff := rfl
@[simp] theorem State.finish_curIdx (c : OutcomeCode) : (s.finish c).curIdx = s.curIdx := rfl
@[simp] theorem State.finish_curCmd (c : OutcomeCode) : (s.finish c).curCmd = s.curCmd := rfl
@[simp] theorem State.finish_curAddr (c : OutcomeCode) : (s.finish c).curAddr = s.curAddr := rfl
@[simp] theorem State.finish_curData (c : OutcomeCode) : (s.finish c).curData = s.curData := rfl
@[simp] theorem State.finish_curVal (c : OutcomeCode) : (s.finish c).curVal = s.curVal := rfl
@[simp] theorem State.finish_curMac (c : OutcomeCode) : (s.finish c).curMac = s.curMac := rfl
@[simp] theorem State.finish_latchLo (c : OutcomeCode) : (s.finish c).latchLo = s.latchLo := rfl
@[simp] theorem State.finish_seqst (c : OutcomeCode) : (s.finish c).seqst = if c = .fatalTimeout then .halted else .idle := rfl
@[simp] theorem State.finish_cmdst (c : OutcomeCode) : (s.finish c).cmdst = if c = .fatalTimeout then .timeout else if c = .ok then .complete else .idle := rfl
@[simp] theorem State.finish_cell (c : OutcomeCode) : (s.finish c).cell = 0 := rfl
@[simp] theorem State.finish_half (c : OutcomeCode) : (s.finish c).half = false := rfl
@[simp] theorem State.finish_toSeen (c : OutcomeCode) : (s.finish c).toSeen = s.toSeen := rfl
@[simp] theorem State.finish_macReading (c : OutcomeCode) : (s.finish c).macReading = false := rfl
@[simp] theorem State.finish_params (c : OutcomeCode) : (s.finish c).params = s.params := rfl
@[simp] theorem State.finish_window (c : OutcomeCode) : (s.finish c).window = s.window := rfl
@[simp] theorem State.finish_device (c : OutcomeCode) : (s.finish c).device = s.device := rfl
@[simp] theorem State.finish_inputs (c : OutcomeCode) : (s.finish c).inputs = s.inputs := rfl
@[simp] theorem State.finish_trace (c : OutcomeCode) : (s.finish c).trace = s.trace := rfl

/-! ## finishOk -/

@[simp] theorem State.finishOk_req (v : Word) : (s.finishOk v).req = s.req := by simp [State.finishOk]
@[simp] theorem State.finishOk_argVal (v : Word) : (s.finishOk v).argVal = s.argVal := by simp [State.finishOk]
@[simp] theorem State.finishOk_argMac (v : Word) : (s.finishOk v).argMac = s.argMac := by simp [State.finishOk]
@[simp] theorem State.finishOk_ready (v : Word) : (s.finishOk v).ready = true := by simp [State.finishOk]
@[simp] theorem State.finishOk_halted (v : Word) : (s.finishOk v).halted = s.halted := by simp [State.finishOk]
@[simp] theorem State.finishOk_outcome (v : Word) : (s.finishOk v).outcome = .ok := by simp [State.finishOk]
@[simp] theorem State.finishOk_opst (v : Word) : (s.finishOk v).opst = 0 := by simp [State.finishOk]
@[simp] theorem State.finishOk_res (v : Word) : (s.finishOk v).res = v := by simp [State.finishOk]
@[simp] theorem State.finishOk_lastCmd (v : Word) : (s.finishOk v).lastCmd = s.lastCmd := by simp [State.finishOk]
@[simp] theorem State.finishOk_preImg (v : Word) : (s.finishOk v).preImg = s.preImg := by simp [State.finishOk]
@[simp] theorem State.finishOk_postImg (v : Word) : (s.finishOk v).postImg = s.postImg := by simp [State.finishOk]
@[simp] theorem State.finishOk_curOp (v : Word) : (s.finishOk v).curOp = s.curOp := by simp [State.finishOk]
@[simp] theorem State.finishOk_curOff (v : Word) : (s.finishOk v).curOff = s.curOff := by simp [State.finishOk]
@[simp] theorem State.finishOk_curIdx (v : Word) : (s.finishOk v).curIdx = s.curIdx := by simp [State.finishOk]
@[simp] theorem State.finishOk_curCmd (v : Word) : (s.finishOk v).curCmd = s.curCmd := by simp [State.finishOk]
@[simp] theorem State.finishOk_curAddr (v : Word) : (s.finishOk v).curAddr = s.curAddr := by simp [State.finishOk]
@[simp] theorem State.finishOk_curData (v : Word) : (s.finishOk v).curData = s.curData := by simp [State.finishOk]
@[simp] theorem State.finishOk_curVal (v : Word) : (s.finishOk v).curVal = s.curVal := by simp [State.finishOk]
@[simp] theorem State.finishOk_curMac (v : Word) : (s.finishOk v).curMac = s.curMac := by simp [State.finishOk]
@[simp] theorem State.finishOk_latchLo (v : Word) : (s.finishOk v).latchLo = s.latchLo := by simp [State.finishOk]
@[simp] theorem State.finishOk_seqst (v : Word) : (s.finishOk v).seqst = .idle := by simp [State.finishOk]
@[simp] theorem State.finishOk_cmdst (v : Word) : (s.finishOk v).cmdst = .complete := by simp [State.finishOk]
@[simp] theorem State.finishOk_cell (v : Word) : (s.finishOk v).cell = 0 := by simp [State.finishOk]
@[simp] theorem State.finishOk_half (v : Word) : (s.finishOk v).half = false := by simp [State.finishOk]
@[simp] theorem State.finishOk_toSeen (v : Word) : (s.finishOk v).toSeen = s.toSeen := by simp [State.finishOk]
@[simp] theorem State.finishOk_macReading (v : Word) : (s.finishOk v).macReading = false := by simp [State.finishOk]
@[simp] theorem State.finishOk_params (v : Word) : (s.finishOk v).params = s.params := by simp [State.finishOk]
@[simp] theorem State.finishOk_window (v : Word) : (s.finishOk v).window = s.window := by simp [State.finishOk]
@[simp] theorem State.finishOk_device (v : Word) : (s.finishOk v).device = s.device := by simp [State.finishOk]
@[simp] theorem State.finishOk_inputs (v : Word) : (s.finishOk v).inputs = s.inputs := by simp [State.finishOk]
@[simp] theorem State.finishOk_trace (v : Word) : (s.finishOk v).trace = s.trace := by simp [State.finishOk]

/-! ## resetEvent -/

@[simp] theorem State.resetEvent_req : (s.resetEvent).req = State.reset.req := rfl
@[simp] theorem State.resetEvent_argVal : (s.resetEvent).argVal = State.reset.argVal := rfl
@[simp] theorem State.resetEvent_argMac : (s.resetEvent).argMac = State.reset.argMac := rfl
@[simp] theorem State.resetEvent_ready : (s.resetEvent).ready = State.reset.ready := rfl
@[simp] theorem State.resetEvent_halted : (s.resetEvent).halted = State.reset.halted := rfl
@[simp] theorem State.resetEvent_outcome : (s.resetEvent).outcome = State.reset.outcome := rfl
@[simp] theorem State.resetEvent_opst : (s.resetEvent).opst = State.reset.opst := rfl
@[simp] theorem State.resetEvent_res : (s.resetEvent).res = State.reset.res := rfl
@[simp] theorem State.resetEvent_lastCmd : (s.resetEvent).lastCmd = State.reset.lastCmd := rfl
@[simp] theorem State.resetEvent_preImg : (s.resetEvent).preImg = State.reset.preImg := rfl
@[simp] theorem State.resetEvent_postImg : (s.resetEvent).postImg = State.reset.postImg := rfl
@[simp] theorem State.resetEvent_curOp : (s.resetEvent).curOp = State.reset.curOp := rfl
@[simp] theorem State.resetEvent_curOff : (s.resetEvent).curOff = State.reset.curOff := rfl
@[simp] theorem State.resetEvent_curIdx : (s.resetEvent).curIdx = State.reset.curIdx := rfl
@[simp] theorem State.resetEvent_curCmd : (s.resetEvent).curCmd = State.reset.curCmd := rfl
@[simp] theorem State.resetEvent_curAddr : (s.resetEvent).curAddr = State.reset.curAddr := rfl
@[simp] theorem State.resetEvent_curData : (s.resetEvent).curData = State.reset.curData := rfl
@[simp] theorem State.resetEvent_curVal : (s.resetEvent).curVal = State.reset.curVal := rfl
@[simp] theorem State.resetEvent_curMac : (s.resetEvent).curMac = State.reset.curMac := rfl
@[simp] theorem State.resetEvent_latchLo : (s.resetEvent).latchLo = State.reset.latchLo := rfl
@[simp] theorem State.resetEvent_seqst : (s.resetEvent).seqst = State.reset.seqst := rfl
@[simp] theorem State.resetEvent_cmdst : (s.resetEvent).cmdst = State.reset.cmdst := rfl
@[simp] theorem State.resetEvent_cell : (s.resetEvent).cell = State.reset.cell := rfl
@[simp] theorem State.resetEvent_half : (s.resetEvent).half = State.reset.half := rfl
@[simp] theorem State.resetEvent_toSeen : (s.resetEvent).toSeen = State.reset.toSeen := rfl
@[simp] theorem State.resetEvent_macReading : (s.resetEvent).macReading = State.reset.macReading := rfl
@[simp] theorem State.resetEvent_params : (s.resetEvent).params = s.params := rfl
@[simp] theorem State.resetEvent_window : (s.resetEvent).window = s.window := rfl
@[simp] theorem State.resetEvent_device : (s.resetEvent).device = s.device := rfl
@[simp] theorem State.resetEvent_inputs : (s.resetEvent).inputs = s.inputs := rfl
@[simp] theorem State.resetEvent_trace : (s.resetEvent).trace = s.trace := rfl

/-! ## latchRequest -/

@[simp] theorem State.latchRequest_req (q : Word) : (s.latchRequest q).req = q := rfl
@[simp] theorem State.latchRequest_argVal (q : Word) : (s.latchRequest q).argVal = s.argVal := rfl
@[simp] theorem State.latchRequest_argMac (q : Word) : (s.latchRequest q).argMac = s.argMac := rfl
@[simp] theorem State.latchRequest_ready (q : Word) : (s.latchRequest q).ready = false := rfl
@[simp] theorem State.latchRequest_halted (q : Word) : (s.latchRequest q).halted = s.halted := rfl
@[simp] theorem State.latchRequest_outcome (q : Word) : (s.latchRequest q).outcome = s.outcome := rfl
@[simp] theorem State.latchRequest_opst (q : Word) : (s.latchRequest q).opst = reqOp q := rfl
@[simp] theorem State.latchRequest_res (q : Word) : (s.latchRequest q).res = s.res := rfl
@[simp] theorem State.latchRequest_lastCmd (q : Word) : (s.latchRequest q).lastCmd = s.lastCmd := rfl
@[simp] theorem State.latchRequest_preImg (q : Word) : (s.latchRequest q).preImg = s.preImg := rfl
@[simp] theorem State.latchRequest_postImg (q : Word) : (s.latchRequest q).postImg = s.postImg := rfl
@[simp] theorem State.latchRequest_curOp (q : Word) : (s.latchRequest q).curOp = reqOp q := rfl
@[simp] theorem State.latchRequest_curOff (q : Word) : (s.latchRequest q).curOff = s.curOff := rfl
@[simp] theorem State.latchRequest_curIdx (q : Word) : (s.latchRequest q).curIdx = s.curIdx := rfl
@[simp] theorem State.latchRequest_curCmd (q : Word) : (s.latchRequest q).curCmd = s.curCmd := rfl
@[simp] theorem State.latchRequest_curAddr (q : Word) : (s.latchRequest q).curAddr = s.curAddr := rfl
@[simp] theorem State.latchRequest_curData (q : Word) : (s.latchRequest q).curData = s.curData := rfl
@[simp] theorem State.latchRequest_curVal (q : Word) : (s.latchRequest q).curVal = s.curVal := rfl
@[simp] theorem State.latchRequest_curMac (q : Word) : (s.latchRequest q).curMac = s.curMac := rfl
@[simp] theorem State.latchRequest_latchLo (q : Word) : (s.latchRequest q).latchLo = s.latchLo := rfl
@[simp] theorem State.latchRequest_seqst (q : Word) : (s.latchRequest q).seqst = s.seqst := rfl
@[simp] theorem State.latchRequest_cmdst (q : Word) : (s.latchRequest q).cmdst = s.cmdst := rfl
@[simp] theorem State.latchRequest_cell (q : Word) : (s.latchRequest q).cell = s.cell := rfl
@[simp] theorem State.latchRequest_half (q : Word) : (s.latchRequest q).half = s.half := rfl
@[simp] theorem State.latchRequest_toSeen (q : Word) : (s.latchRequest q).toSeen = s.toSeen := rfl
@[simp] theorem State.latchRequest_macReading (q : Word) : (s.latchRequest q).macReading = s.macReading := rfl
@[simp] theorem State.latchRequest_params (q : Word) : (s.latchRequest q).params = s.params := rfl
@[simp] theorem State.latchRequest_window (q : Word) : (s.latchRequest q).window = s.window := rfl
@[simp] theorem State.latchRequest_device (q : Word) : (s.latchRequest q).device = s.device := rfl
@[simp] theorem State.latchRequest_inputs (q : Word) : (s.latchRequest q).inputs = s.inputs := rfl
@[simp] theorem State.latchRequest_trace (q : Word) : (s.latchRequest q).trace = s.trace := rfl

/-! ## withArgs -/

@[simp] theorem State.withArgs_req : (s.withArgs).req = s.req := rfl
@[simp] theorem State.withArgs_argVal : (s.withArgs).argVal = s.argVal := rfl
@[simp] theorem State.withArgs_argMac : (s.withArgs).argMac = s.argMac := rfl
@[simp] theorem State.withArgs_ready : (s.withArgs).ready = s.ready := rfl
@[simp] theorem State.withArgs_halted : (s.withArgs).halted = s.halted := rfl
@[simp] theorem State.withArgs_outcome : (s.withArgs).outcome = s.outcome := rfl
@[simp] theorem State.withArgs_opst : (s.withArgs).opst = s.opst := rfl
@[simp] theorem State.withArgs_res : (s.withArgs).res = s.res := rfl
@[simp] theorem State.withArgs_lastCmd : (s.withArgs).lastCmd = s.lastCmd := rfl
@[simp] theorem State.withArgs_preImg : (s.withArgs).preImg = s.preImg := rfl
@[simp] theorem State.withArgs_postImg : (s.withArgs).postImg = s.postImg := rfl
@[simp] theorem State.withArgs_curOp : (s.withArgs).curOp = s.curOp := rfl
@[simp] theorem State.withArgs_curOff : (s.withArgs).curOff = s.curOff := rfl
@[simp] theorem State.withArgs_curIdx : (s.withArgs).curIdx = s.curIdx := rfl
@[simp] theorem State.withArgs_curCmd : (s.withArgs).curCmd = s.curCmd := rfl
@[simp] theorem State.withArgs_curAddr : (s.withArgs).curAddr = s.curAddr := rfl
@[simp] theorem State.withArgs_curData : (s.withArgs).curData = s.curData := rfl
@[simp] theorem State.withArgs_curVal : (s.withArgs).curVal = s.argVal := rfl
@[simp] theorem State.withArgs_curMac : (s.withArgs).curMac = s.argMac := rfl
@[simp] theorem State.withArgs_latchLo : (s.withArgs).latchLo = s.latchLo := rfl
@[simp] theorem State.withArgs_seqst : (s.withArgs).seqst = s.seqst := rfl
@[simp] theorem State.withArgs_cmdst : (s.withArgs).cmdst = s.cmdst := rfl
@[simp] theorem State.withArgs_cell : (s.withArgs).cell = s.cell := rfl
@[simp] theorem State.withArgs_half : (s.withArgs).half = s.half := rfl
@[simp] theorem State.withArgs_toSeen : (s.withArgs).toSeen = s.toSeen := rfl
@[simp] theorem State.withArgs_macReading : (s.withArgs).macReading = s.macReading := rfl
@[simp] theorem State.withArgs_params : (s.withArgs).params = s.params := rfl
@[simp] theorem State.withArgs_window : (s.withArgs).window = s.window := rfl
@[simp] theorem State.withArgs_device : (s.withArgs).device = s.device := rfl
@[simp] theorem State.withArgs_inputs : (s.withArgs).inputs = s.inputs := rfl
@[simp] theorem State.withArgs_trace : (s.withArgs).trace = s.trace := rfl

/-! ## copyFields -/

@[simp] theorem State.copyFields_req (f : Format) (q : Word) : (s.copyFields f q).req = s.req := rfl
@[simp] theorem State.copyFields_argVal (f : Format) (q : Word) : (s.copyFields f q).argVal = s.argVal := rfl
@[simp] theorem State.copyFields_argMac (f : Format) (q : Word) : (s.copyFields f q).argMac = s.argMac := rfl
@[simp] theorem State.copyFields_ready (f : Format) (q : Word) : (s.copyFields f q).ready = s.ready := rfl
@[simp] theorem State.copyFields_halted (f : Format) (q : Word) : (s.copyFields f q).halted = s.halted := rfl
@[simp] theorem State.copyFields_outcome (f : Format) (q : Word) : (s.copyFields f q).outcome = s.outcome := rfl
@[simp] theorem State.copyFields_opst (f : Format) (q : Word) : (s.copyFields f q).opst = s.opst := rfl
@[simp] theorem State.copyFields_res (f : Format) (q : Word) : (s.copyFields f q).res = s.res := rfl
@[simp] theorem State.copyFields_lastCmd (f : Format) (q : Word) : (s.copyFields f q).lastCmd = s.lastCmd := rfl
@[simp] theorem State.copyFields_preImg (f : Format) (q : Word) : (s.copyFields f q).preImg = s.preImg := rfl
@[simp] theorem State.copyFields_postImg (f : Format) (q : Word) : (s.copyFields f q).postImg = s.postImg := rfl
@[simp] theorem State.copyFields_curOp (f : Format) (q : Word) : (s.copyFields f q).curOp = s.curOp := rfl
@[simp] theorem State.copyFields_curOff (f : Format) (q : Word) : (s.copyFields f q).curOff = if f = .hr then reqOff q else s.curOff := rfl
@[simp] theorem State.copyFields_curIdx (f : Format) (q : Word) : (s.copyFields f q).curIdx = if f = .hm then reqIdx q else s.curIdx := rfl
@[simp] theorem State.copyFields_curCmd (f : Format) (q : Word) : (s.copyFields f q).curCmd = if f = .hs then reqCmd q else s.curCmd := rfl
@[simp] theorem State.copyFields_curAddr (f : Format) (q : Word) : (s.copyFields f q).curAddr = if f = .hs ∨ f = .hc then reqAddr q else s.curAddr := rfl
@[simp] theorem State.copyFields_curData (f : Format) (q : Word) : (s.copyFields f q).curData = if f = .hc then reqData q else s.curData := rfl
@[simp] theorem State.copyFields_curVal (f : Format) (q : Word) : (s.copyFields f q).curVal = s.curVal := rfl
@[simp] theorem State.copyFields_curMac (f : Format) (q : Word) : (s.copyFields f q).curMac = s.curMac := rfl
@[simp] theorem State.copyFields_latchLo (f : Format) (q : Word) : (s.copyFields f q).latchLo = s.latchLo := rfl
@[simp] theorem State.copyFields_seqst (f : Format) (q : Word) : (s.copyFields f q).seqst = s.seqst := rfl
@[simp] theorem State.copyFields_cmdst (f : Format) (q : Word) : (s.copyFields f q).cmdst = s.cmdst := rfl
@[simp] theorem State.copyFields_cell (f : Format) (q : Word) : (s.copyFields f q).cell = s.cell := rfl
@[simp] theorem State.copyFields_half (f : Format) (q : Word) : (s.copyFields f q).half = s.half := rfl
@[simp] theorem State.copyFields_toSeen (f : Format) (q : Word) : (s.copyFields f q).toSeen = s.toSeen := rfl
@[simp] theorem State.copyFields_macReading (f : Format) (q : Word) : (s.copyFields f q).macReading = s.macReading := rfl
@[simp] theorem State.copyFields_params (f : Format) (q : Word) : (s.copyFields f q).params = s.params := rfl
@[simp] theorem State.copyFields_window (f : Format) (q : Word) : (s.copyFields f q).window = s.window := rfl
@[simp] theorem State.copyFields_device (f : Format) (q : Word) : (s.copyFields f q).device = s.device := rfl
@[simp] theorem State.copyFields_inputs (f : Format) (q : Word) : (s.copyFields f q).inputs = s.inputs := rfl
@[simp] theorem State.copyFields_trace (f : Format) (q : Word) : (s.copyFields f q).trace = s.trace := rfl

/-! ## accept -/

@[simp] theorem State.accept_req (f : Format) (q : Word) : (s.accept f q).req = q := by simp [State.accept]
@[simp] theorem State.accept_argVal (f : Format) (q : Word) : (s.accept f q).argVal = s.argVal := by simp [State.accept]
@[simp] theorem State.accept_argMac (f : Format) (q : Word) : (s.accept f q).argMac = s.argMac := by simp [State.accept]
@[simp] theorem State.accept_ready (f : Format) (q : Word) : (s.accept f q).ready = false := by simp [State.accept]
@[simp] theorem State.accept_halted (f : Format) (q : Word) : (s.accept f q).halted = s.halted := by simp [State.accept]
@[simp] theorem State.accept_outcome (f : Format) (q : Word) : (s.accept f q).outcome = s.outcome := by simp [State.accept]
@[simp] theorem State.accept_opst (f : Format) (q : Word) : (s.accept f q).opst = reqOp q := by simp [State.accept]
@[simp] theorem State.accept_res (f : Format) (q : Word) : (s.accept f q).res = s.res := by simp [State.accept]
@[simp] theorem State.accept_lastCmd (f : Format) (q : Word) : (s.accept f q).lastCmd = s.lastCmd := by simp [State.accept]
@[simp] theorem State.accept_preImg (f : Format) (q : Word) : (s.accept f q).preImg = s.preImg := by simp [State.accept]
@[simp] theorem State.accept_postImg (f : Format) (q : Word) : (s.accept f q).postImg = s.postImg := by simp [State.accept]
@[simp] theorem State.accept_curOp (f : Format) (q : Word) : (s.accept f q).curOp = reqOp q := by simp [State.accept]
@[simp] theorem State.accept_curOff (f : Format) (q : Word) : (s.accept f q).curOff = if f = .hr then reqOff q else s.curOff := by simp [State.accept]
@[simp] theorem State.accept_curIdx (f : Format) (q : Word) : (s.accept f q).curIdx = if f = .hm then reqIdx q else s.curIdx := by simp [State.accept]
@[simp] theorem State.accept_curCmd (f : Format) (q : Word) : (s.accept f q).curCmd = if f = .hs then reqCmd q else s.curCmd := by simp [State.accept]
@[simp] theorem State.accept_curAddr (f : Format) (q : Word) : (s.accept f q).curAddr = if f = .hs ∨ f = .hc then reqAddr q else s.curAddr := by simp [State.accept]
@[simp] theorem State.accept_curData (f : Format) (q : Word) : (s.accept f q).curData = if f = .hc then reqData q else s.curData := by simp [State.accept]
@[simp] theorem State.accept_curVal (f : Format) (q : Word) : (s.accept f q).curVal = s.argVal := by simp [State.accept]
@[simp] theorem State.accept_curMac (f : Format) (q : Word) : (s.accept f q).curMac = s.argMac := by simp [State.accept]
@[simp] theorem State.accept_latchLo (f : Format) (q : Word) : (s.accept f q).latchLo = s.latchLo := by simp [State.accept]
@[simp] theorem State.accept_seqst (f : Format) (q : Word) : (s.accept f q).seqst = s.seqst := by simp [State.accept]
@[simp] theorem State.accept_cmdst (f : Format) (q : Word) : (s.accept f q).cmdst = s.cmdst := by simp [State.accept]
@[simp] theorem State.accept_cell (f : Format) (q : Word) : (s.accept f q).cell = s.cell := by simp [State.accept]
@[simp] theorem State.accept_half (f : Format) (q : Word) : (s.accept f q).half = false := by simp [State.accept]
@[simp] theorem State.accept_toSeen (f : Format) (q : Word) : (s.accept f q).toSeen = s.toSeen := by simp [State.accept]
@[simp] theorem State.accept_macReading (f : Format) (q : Word) : (s.accept f q).macReading = false := by simp [State.accept]
@[simp] theorem State.accept_params (f : Format) (q : Word) : (s.accept f q).params = s.params := by simp [State.accept]
@[simp] theorem State.accept_window (f : Format) (q : Word) : (s.accept f q).window = s.window := by simp [State.accept]
@[simp] theorem State.accept_device (f : Format) (q : Word) : (s.accept f q).device = s.device := by simp [State.accept]
@[simp] theorem State.accept_inputs (f : Format) (q : Word) : (s.accept f q).inputs = s.inputs := by simp [State.accept]
@[simp] theorem State.accept_trace (f : Format) (q : Word) : (s.accept f q).trace = s.trace := by simp [State.accept]

/-! ## rejectRequest -/

@[simp] theorem State.rejectRequest_req (q : Word) (c : OutcomeCode) : (s.rejectRequest q c).req = q := by simp [State.rejectRequest]
@[simp] theorem State.rejectRequest_argVal (q : Word) (c : OutcomeCode) : (s.rejectRequest q c).argVal = s.argVal := by simp [State.rejectRequest]
@[simp] theorem State.rejectRequest_argMac (q : Word) (c : OutcomeCode) : (s.rejectRequest q c).argMac = s.argMac := by simp [State.rejectRequest]
@[simp] theorem State.rejectRequest_ready (q : Word) (c : OutcomeCode) : (s.rejectRequest q c).ready = if c = .fatalTimeout then false else true := by simp [State.rejectRequest]
@[simp] theorem State.rejectRequest_halted (q : Word) (c : OutcomeCode) : (s.rejectRequest q c).halted = if c = .fatalTimeout then true else s.halted := by simp [State.rejectRequest]
@[simp] theorem State.rejectRequest_outcome (q : Word) (c : OutcomeCode) : (s.rejectRequest q c).outcome = c := by simp [State.rejectRequest]
@[simp] theorem State.rejectRequest_opst (q : Word) (c : OutcomeCode) : (s.rejectRequest q c).opst = 0 := by simp [State.rejectRequest]
@[simp] theorem State.rejectRequest_res (q : Word) (c : OutcomeCode) : (s.rejectRequest q c).res = s.res := by simp [State.rejectRequest]
@[simp] theorem State.rejectRequest_lastCmd (q : Word) (c : OutcomeCode) : (s.rejectRequest q c).lastCmd = s.lastCmd := by simp [State.rejectRequest]
@[simp] theorem State.rejectRequest_preImg (q : Word) (c : OutcomeCode) : (s.rejectRequest q c).preImg = s.preImg := by simp [State.rejectRequest]
@[simp] theorem State.rejectRequest_postImg (q : Word) (c : OutcomeCode) : (s.rejectRequest q c).postImg = s.postImg := by simp [State.rejectRequest]
@[simp] theorem State.rejectRequest_curOp (q : Word) (c : OutcomeCode) : (s.rejectRequest q c).curOp = reqOp q := by simp [State.rejectRequest]
@[simp] theorem State.rejectRequest_curOff (q : Word) (c : OutcomeCode) : (s.rejectRequest q c).curOff = s.curOff := by simp [State.rejectRequest]
@[simp] theorem State.rejectRequest_curIdx (q : Word) (c : OutcomeCode) : (s.rejectRequest q c).curIdx = s.curIdx := by simp [State.rejectRequest]
@[simp] theorem State.rejectRequest_curCmd (q : Word) (c : OutcomeCode) : (s.rejectRequest q c).curCmd = s.curCmd := by simp [State.rejectRequest]
@[simp] theorem State.rejectRequest_curAddr (q : Word) (c : OutcomeCode) : (s.rejectRequest q c).curAddr = s.curAddr := by simp [State.rejectRequest]
@[simp] theorem State.rejectRequest_curData (q : Word) (c : OutcomeCode) : (s.rejectRequest q c).curData = s.curData := by simp [State.rejectRequest]
@[simp] theorem State.rejectRequest_curVal (q : Word) (c : OutcomeCode) : (s.rejectRequest q c).curVal = s.curVal := by simp [State.rejectRequest]
@[simp] theorem State.rejectRequest_curMac (q : Word) (c : OutcomeCode) : (s.rejectRequest q c).curMac = s.curMac := by simp [State.rejectRequest]
@[simp] theorem State.rejectRequest_latchLo (q : Word) (c : OutcomeCode) : (s.rejectRequest q c).latchLo = s.latchLo := by simp [State.rejectRequest]
@[simp] theorem State.rejectRequest_seqst (q : Word) (c : OutcomeCode) : (s.rejectRequest q c).seqst = if c = .fatalTimeout then .halted else .idle := by simp [State.rejectRequest]
@[simp] theorem State.rejectRequest_cmdst (q : Word) (c : OutcomeCode) : (s.rejectRequest q c).cmdst = if c = .fatalTimeout then .timeout else if c = .ok then .complete else .idle := by simp [State.rejectRequest]
@[simp] theorem State.rejectRequest_cell (q : Word) (c : OutcomeCode) : (s.rejectRequest q c).cell = 0 := by simp [State.rejectRequest]
@[simp] theorem State.rejectRequest_half (q : Word) (c : OutcomeCode) : (s.rejectRequest q c).half = false := by simp [State.rejectRequest]
@[simp] theorem State.rejectRequest_toSeen (q : Word) (c : OutcomeCode) : (s.rejectRequest q c).toSeen = s.toSeen := by simp [State.rejectRequest]
@[simp] theorem State.rejectRequest_macReading (q : Word) (c : OutcomeCode) : (s.rejectRequest q c).macReading = false := by simp [State.rejectRequest]
@[simp] theorem State.rejectRequest_params (q : Word) (c : OutcomeCode) : (s.rejectRequest q c).params = s.params := by simp [State.rejectRequest]
@[simp] theorem State.rejectRequest_window (q : Word) (c : OutcomeCode) : (s.rejectRequest q c).window = s.window := by simp [State.rejectRequest]
@[simp] theorem State.rejectRequest_device (q : Word) (c : OutcomeCode) : (s.rejectRequest q c).device = s.device := by simp [State.rejectRequest]
@[simp] theorem State.rejectRequest_inputs (q : Word) (c : OutcomeCode) : (s.rejectRequest q c).inputs = s.inputs := by simp [State.rejectRequest]
@[simp] theorem State.rejectRequest_trace (q : Word) (c : OutcomeCode) : (s.rejectRequest q c).trace = s.trace := by simp [State.rejectRequest]

/-! ## startCell -/

@[simp] theorem State.startCell_req (op : CellOp) (c : CellIx) : (s.startCell op c).req = s.req := by simp [State.startCell]
@[simp] theorem State.startCell_argVal (op : CellOp) (c : CellIx) : (s.startCell op c).argVal = s.argVal := by simp [State.startCell]
@[simp] theorem State.startCell_argMac (op : CellOp) (c : CellIx) : (s.startCell op c).argMac = s.argMac := by simp [State.startCell]
@[simp] theorem State.startCell_ready (op : CellOp) (c : CellIx) : (s.startCell op c).ready = s.ready := by simp [State.startCell]
@[simp] theorem State.startCell_halted (op : CellOp) (c : CellIx) : (s.startCell op c).halted = s.halted := by simp [State.startCell]
@[simp] theorem State.startCell_outcome (op : CellOp) (c : CellIx) : (s.startCell op c).outcome = s.outcome := by simp [State.startCell]
@[simp] theorem State.startCell_opst (op : CellOp) (c : CellIx) : (s.startCell op c).opst = s.opst := by simp [State.startCell]
@[simp] theorem State.startCell_res (op : CellOp) (c : CellIx) : (s.startCell op c).res = s.res := by simp [State.startCell]
@[simp] theorem State.startCell_lastCmd (op : CellOp) (c : CellIx) : (s.startCell op c).lastCmd = s.lastCmd := by simp [State.startCell]
@[simp] theorem State.startCell_preImg (op : CellOp) (c : CellIx) : (s.startCell op c).preImg = s.preImg := by simp [State.startCell]
@[simp] theorem State.startCell_postImg (op : CellOp) (c : CellIx) : (s.startCell op c).postImg = s.postImg := by simp [State.startCell]
@[simp] theorem State.startCell_curOp (op : CellOp) (c : CellIx) : (s.startCell op c).curOp = s.curOp := by simp [State.startCell]
@[simp] theorem State.startCell_curOff (op : CellOp) (c : CellIx) : (s.startCell op c).curOff = s.curOff := by simp [State.startCell]
@[simp] theorem State.startCell_curIdx (op : CellOp) (c : CellIx) : (s.startCell op c).curIdx = s.curIdx := by simp [State.startCell]
@[simp] theorem State.startCell_curCmd (op : CellOp) (c : CellIx) : (s.startCell op c).curCmd = op.cmd := by simp [State.startCell]
@[simp] theorem State.startCell_curAddr (op : CellOp) (c : CellIx) : (s.startCell op c).curAddr = s.curAddr := by simp [State.startCell]
@[simp] theorem State.startCell_curData (op : CellOp) (c : CellIx) : (s.startCell op c).curData = s.curData := by simp [State.startCell]
@[simp] theorem State.startCell_curVal (op : CellOp) (c : CellIx) : (s.startCell op c).curVal = s.curVal := by simp [State.startCell]
@[simp] theorem State.startCell_curMac (op : CellOp) (c : CellIx) : (s.startCell op c).curMac = s.curMac := by simp [State.startCell]
@[simp] theorem State.startCell_latchLo (op : CellOp) (c : CellIx) : (s.startCell op c).latchLo = s.latchLo := by simp [State.startCell]
@[simp] theorem State.startCell_seqst (op : CellOp) (c : CellIx) : (s.startCell op c).seqst = s.seqst := by simp [State.startCell]
@[simp] theorem State.startCell_cmdst (op : CellOp) (c : CellIx) : (s.startCell op c).cmdst = .prewait := by simp [State.startCell]
@[simp] theorem State.startCell_cell (op : CellOp) (c : CellIx) : (s.startCell op c).cell = c := by simp [State.startCell]
@[simp] theorem State.startCell_half (op : CellOp) (c : CellIx) : (s.startCell op c).half = s.half := by simp [State.startCell]
@[simp] theorem State.startCell_toSeen (op : CellOp) (c : CellIx) : (s.startCell op c).toSeen = s.toSeen := by simp [State.startCell]
@[simp] theorem State.startCell_macReading (op : CellOp) (c : CellIx) : (s.startCell op c).macReading = s.macReading := by simp [State.startCell]
@[simp] theorem State.startCell_params (op : CellOp) (c : CellIx) : (s.startCell op c).params = s.params := by simp [State.startCell]
@[simp] theorem State.startCell_window (op : CellOp) (c : CellIx) : (s.startCell op c).window = s.window := by simp [State.startCell]
@[simp] theorem State.startCell_device (op : CellOp) (c : CellIx) : (s.startCell op c).device = s.device := by simp [State.startCell]
@[simp] theorem State.startCell_inputs (op : CellOp) (c : CellIx) : (s.startCell op c).inputs = s.inputs := by simp [State.startCell]
@[simp] theorem State.startCell_trace (op : CellOp) (c : CellIx) : (s.startCell op c).trace = s.trace := by simp [State.startCell]

/-! ## startSeqCell -/

@[simp] theorem State.startSeqCell_req (op : CellOp) (c : CellIx) : (s.startSeqCell op c).req = s.req := by simp [State.startSeqCell]
@[simp] theorem State.startSeqCell_argVal (op : CellOp) (c : CellIx) : (s.startSeqCell op c).argVal = s.argVal := by simp [State.startSeqCell]
@[simp] theorem State.startSeqCell_argMac (op : CellOp) (c : CellIx) : (s.startSeqCell op c).argMac = s.argMac := by simp [State.startSeqCell]
@[simp] theorem State.startSeqCell_ready (op : CellOp) (c : CellIx) : (s.startSeqCell op c).ready = s.ready := by simp [State.startSeqCell]
@[simp] theorem State.startSeqCell_halted (op : CellOp) (c : CellIx) : (s.startSeqCell op c).halted = s.halted := by simp [State.startSeqCell]
@[simp] theorem State.startSeqCell_outcome (op : CellOp) (c : CellIx) : (s.startSeqCell op c).outcome = s.outcome := by simp [State.startSeqCell]
@[simp] theorem State.startSeqCell_opst (op : CellOp) (c : CellIx) : (s.startSeqCell op c).opst = s.opst := by simp [State.startSeqCell]
@[simp] theorem State.startSeqCell_res (op : CellOp) (c : CellIx) : (s.startSeqCell op c).res = s.res := by simp [State.startSeqCell]
@[simp] theorem State.startSeqCell_lastCmd (op : CellOp) (c : CellIx) : (s.startSeqCell op c).lastCmd = s.lastCmd := by simp [State.startSeqCell]
@[simp] theorem State.startSeqCell_preImg (op : CellOp) (c : CellIx) : (s.startSeqCell op c).preImg = s.preImg := by simp [State.startSeqCell]
@[simp] theorem State.startSeqCell_postImg (op : CellOp) (c : CellIx) : (s.startSeqCell op c).postImg = s.postImg := by simp [State.startSeqCell]
@[simp] theorem State.startSeqCell_curOp (op : CellOp) (c : CellIx) : (s.startSeqCell op c).curOp = s.curOp := by simp [State.startSeqCell]
@[simp] theorem State.startSeqCell_curOff (op : CellOp) (c : CellIx) : (s.startSeqCell op c).curOff = s.curOff := by simp [State.startSeqCell]
@[simp] theorem State.startSeqCell_curIdx (op : CellOp) (c : CellIx) : (s.startSeqCell op c).curIdx = s.curIdx := by simp [State.startSeqCell]
@[simp] theorem State.startSeqCell_curCmd (op : CellOp) (c : CellIx) : (s.startSeqCell op c).curCmd = op.cmd := by simp [State.startSeqCell]
@[simp] theorem State.startSeqCell_curAddr (op : CellOp) (c : CellIx) : (s.startSeqCell op c).curAddr = cellAddr c := by simp [State.startSeqCell]
@[simp] theorem State.startSeqCell_curData (op : CellOp) (c : CellIx) : (s.startSeqCell op c).curData = s.curData := by simp [State.startSeqCell]
@[simp] theorem State.startSeqCell_curVal (op : CellOp) (c : CellIx) : (s.startSeqCell op c).curVal = s.curVal := by simp [State.startSeqCell]
@[simp] theorem State.startSeqCell_curMac (op : CellOp) (c : CellIx) : (s.startSeqCell op c).curMac = s.curMac := by simp [State.startSeqCell]
@[simp] theorem State.startSeqCell_latchLo (op : CellOp) (c : CellIx) : (s.startSeqCell op c).latchLo = s.latchLo := by simp [State.startSeqCell]
@[simp] theorem State.startSeqCell_seqst (op : CellOp) (c : CellIx) : (s.startSeqCell op c).seqst = s.seqst := by simp [State.startSeqCell]
@[simp] theorem State.startSeqCell_cmdst (op : CellOp) (c : CellIx) : (s.startSeqCell op c).cmdst = .prewait := by simp [State.startSeqCell]
@[simp] theorem State.startSeqCell_cell (op : CellOp) (c : CellIx) : (s.startSeqCell op c).cell = c := by simp [State.startSeqCell]
@[simp] theorem State.startSeqCell_half (op : CellOp) (c : CellIx) : (s.startSeqCell op c).half = s.half := by simp [State.startSeqCell]
@[simp] theorem State.startSeqCell_toSeen (op : CellOp) (c : CellIx) : (s.startSeqCell op c).toSeen = s.toSeen := by simp [State.startSeqCell]
@[simp] theorem State.startSeqCell_macReading (op : CellOp) (c : CellIx) : (s.startSeqCell op c).macReading = s.macReading := by simp [State.startSeqCell]
@[simp] theorem State.startSeqCell_params (op : CellOp) (c : CellIx) : (s.startSeqCell op c).params = s.params := by simp [State.startSeqCell]
@[simp] theorem State.startSeqCell_window (op : CellOp) (c : CellIx) : (s.startSeqCell op c).window = s.window := by simp [State.startSeqCell]
@[simp] theorem State.startSeqCell_device (op : CellOp) (c : CellIx) : (s.startSeqCell op c).device = s.device := by simp [State.startSeqCell]
@[simp] theorem State.startSeqCell_inputs (op : CellOp) (c : CellIx) : (s.startSeqCell op c).inputs = s.inputs := by simp [State.startSeqCell]
@[simp] theorem State.startSeqCell_trace (op : CellOp) (c : CellIx) : (s.startSeqCell op c).trace = s.trace := by simp [State.startSeqCell]

/-! ## startSeqWrite -/

@[simp] theorem State.startSeqWrite_req (c : CellIx) (b : Byte) : (s.startSeqWrite c b).req = s.req := by simp [State.startSeqWrite]
@[simp] theorem State.startSeqWrite_argVal (c : CellIx) (b : Byte) : (s.startSeqWrite c b).argVal = s.argVal := by simp [State.startSeqWrite]
@[simp] theorem State.startSeqWrite_argMac (c : CellIx) (b : Byte) : (s.startSeqWrite c b).argMac = s.argMac := by simp [State.startSeqWrite]
@[simp] theorem State.startSeqWrite_ready (c : CellIx) (b : Byte) : (s.startSeqWrite c b).ready = s.ready := by simp [State.startSeqWrite]
@[simp] theorem State.startSeqWrite_halted (c : CellIx) (b : Byte) : (s.startSeqWrite c b).halted = s.halted := by simp [State.startSeqWrite]
@[simp] theorem State.startSeqWrite_outcome (c : CellIx) (b : Byte) : (s.startSeqWrite c b).outcome = s.outcome := by simp [State.startSeqWrite]
@[simp] theorem State.startSeqWrite_opst (c : CellIx) (b : Byte) : (s.startSeqWrite c b).opst = s.opst := by simp [State.startSeqWrite]
@[simp] theorem State.startSeqWrite_res (c : CellIx) (b : Byte) : (s.startSeqWrite c b).res = s.res := by simp [State.startSeqWrite]
@[simp] theorem State.startSeqWrite_lastCmd (c : CellIx) (b : Byte) : (s.startSeqWrite c b).lastCmd = s.lastCmd := by simp [State.startSeqWrite]
@[simp] theorem State.startSeqWrite_preImg (c : CellIx) (b : Byte) : (s.startSeqWrite c b).preImg = s.preImg := by simp [State.startSeqWrite]
@[simp] theorem State.startSeqWrite_postImg (c : CellIx) (b : Byte) : (s.startSeqWrite c b).postImg = s.postImg := by simp [State.startSeqWrite]
@[simp] theorem State.startSeqWrite_curOp (c : CellIx) (b : Byte) : (s.startSeqWrite c b).curOp = s.curOp := by simp [State.startSeqWrite]
@[simp] theorem State.startSeqWrite_curOff (c : CellIx) (b : Byte) : (s.startSeqWrite c b).curOff = s.curOff := by simp [State.startSeqWrite]
@[simp] theorem State.startSeqWrite_curIdx (c : CellIx) (b : Byte) : (s.startSeqWrite c b).curIdx = s.curIdx := by simp [State.startSeqWrite]
@[simp] theorem State.startSeqWrite_curCmd (c : CellIx) (b : Byte) : (s.startSeqWrite c b).curCmd = .write := by simp [State.startSeqWrite, CellOp.cmd]
@[simp] theorem State.startSeqWrite_curAddr (c : CellIx) (b : Byte) : (s.startSeqWrite c b).curAddr = cellAddr c := by simp [State.startSeqWrite]
@[simp] theorem State.startSeqWrite_curData (c : CellIx) (b : Byte) : (s.startSeqWrite c b).curData = b := by simp [State.startSeqWrite]
@[simp] theorem State.startSeqWrite_curVal (c : CellIx) (b : Byte) : (s.startSeqWrite c b).curVal = s.curVal := by simp [State.startSeqWrite]
@[simp] theorem State.startSeqWrite_curMac (c : CellIx) (b : Byte) : (s.startSeqWrite c b).curMac = s.curMac := by simp [State.startSeqWrite]
@[simp] theorem State.startSeqWrite_latchLo (c : CellIx) (b : Byte) : (s.startSeqWrite c b).latchLo = s.latchLo := by simp [State.startSeqWrite]
@[simp] theorem State.startSeqWrite_seqst (c : CellIx) (b : Byte) : (s.startSeqWrite c b).seqst = s.seqst := by simp [State.startSeqWrite]
@[simp] theorem State.startSeqWrite_cmdst (c : CellIx) (b : Byte) : (s.startSeqWrite c b).cmdst = .prewait := by simp [State.startSeqWrite]
@[simp] theorem State.startSeqWrite_cell (c : CellIx) (b : Byte) : (s.startSeqWrite c b).cell = c := by simp [State.startSeqWrite]
@[simp] theorem State.startSeqWrite_half (c : CellIx) (b : Byte) : (s.startSeqWrite c b).half = s.half := by simp [State.startSeqWrite]
@[simp] theorem State.startSeqWrite_toSeen (c : CellIx) (b : Byte) : (s.startSeqWrite c b).toSeen = s.toSeen := by simp [State.startSeqWrite]
@[simp] theorem State.startSeqWrite_macReading (c : CellIx) (b : Byte) : (s.startSeqWrite c b).macReading = s.macReading := by simp [State.startSeqWrite]
@[simp] theorem State.startSeqWrite_params (c : CellIx) (b : Byte) : (s.startSeqWrite c b).params = s.params := by simp [State.startSeqWrite]
@[simp] theorem State.startSeqWrite_window (c : CellIx) (b : Byte) : (s.startSeqWrite c b).window = s.window := by simp [State.startSeqWrite]
@[simp] theorem State.startSeqWrite_device (c : CellIx) (b : Byte) : (s.startSeqWrite c b).device = s.device := by simp [State.startSeqWrite]
@[simp] theorem State.startSeqWrite_inputs (c : CellIx) (b : Byte) : (s.startSeqWrite c b).inputs = s.inputs := by simp [State.startSeqWrite]
@[simp] theorem State.startSeqWrite_trace (c : CellIx) (b : Byte) : (s.startSeqWrite c b).trace = s.trace := by simp [State.startSeqWrite]

end Sys2Proof.Machine
end

