-- ==== Sys2Proof/Laws/Ops.lean ====
section
/-! SUPPORT. What each shared operation can do, said once. -/

namespace Sys2Proof.Machine

variable {s : State}

/-! ## The Register Transport -/

/-- R100, the low half. -/
theorem State.writeRegister_low (o : Offset) (v : Word) (k : State → State) (h : s.half = false) :
    s.writeRegister o v k = ((s.portWrite o (loHalf v)).setHalf true) := by
  simp [State.writeRegister, h]

/-- R100, the high half. -/
theorem State.writeRegister_high (o : Offset) (v : Word) (k : State → State) (h : s.half = true) :
    s.writeRegister o v k = k ((s.portWrite (o + 2) (hiHalf v)).setHalf false) := by
  simp [State.writeRegister, h]

/-- R101, the low half. -/
theorem State.readRegister_low (o : Offset) (k : Word → State → State) (h : s.half = false) :
    s.readRegister o k = (((s.portRead o).setLatch (s.readValue o)).setHalf true) := by
  simp [State.readRegister, h]

/-- R101, the high half. -/
theorem State.readRegister_high (o : Offset) (k : Word → State → State) (h : s.half = true) :
    s.readRegister o k = k (joinHalves (s.readValue (o + 2)) s.latchLo)
      ((s.portRead (o + 2)).setHalf false) := by
  simp [State.readRegister, h]

/-- Everything a transaction of `writeRegister` can do. -/
theorem State.writeRegister_cases (P : State → Prop) (o : Offset) (v : Word) (k : State → State)
    (low : s.half = false → P ((s.portWrite o (loHalf v)).setHalf true))
    (high : s.half = true → P (k ((s.portWrite (o + 2) (hiHalf v)).setHalf false))) :
    P (s.writeRegister o v k) := by
  cases h : s.half with
  | false => rw [State.writeRegister_low o v k h]; exact low h
  | true => rw [State.writeRegister_high o v k h]; exact high h

/-- Everything a transaction of `readRegister` can do. -/
theorem State.readRegister_cases (P : State → Prop) (o : Offset) (k : Word → State → State)
    (low : s.half = false → P (((s.portRead o).setLatch (s.readValue o)).setHalf true))
    (high : s.half = true → P (k (joinHalves (s.readValue (o + 2)) s.latchLo)
      ((s.portRead (o + 2)).setHalf false))) :
    P (s.readRegister o k) := by
  cases h : s.half with
  | false => rw [State.readRegister_low o k h]; exact low h
  | true => rw [State.readRegister_high o k h]; exact high h

/-! ## The polls and the check -/

/-- R120: the low half of an iteration. -/
theorem State.poll_low (k : Word → State → State) (h : s.half = false) :
    s.poll k = (((s.portRead s.params.e2pCmd).setLatch (s.readValue s.params.e2pCmd)).setHalf true) :=
  State.readRegister_low _ _ h

/-- R120: an iteration that sees BUSY. -/
theorem State.poll_busy (k : Word → State → State) (h : s.half = true)
    (hb : busyBit s.cmdValue = true) :
    s.poll k = (((s.portRead (s.params.e2pCmd + 2)).setHalf false).setLastCmd s.cmdValue) := by
  unfold State.poll
  rw [State.readRegister_high _ _ h]
  exact if_pos hb

/-- R120: the last iteration. -/
theorem State.poll_done (k : Word → State → State) (h : s.half = true)
    (hb : busyBit s.cmdValue = false) :
    s.poll k = k s.cmdValue
      (((s.portRead (s.params.e2pCmd + 2)).setHalf false).setLastCmd s.cmdValue) := by
  unfold State.poll
  rw [State.readRegister_high _ _ h]
  exact if_neg (by rw [hb]; exact Bool.false_ne_true)

/-- Everything a transaction of `waitIdle` can do. -/
theorem State.poll_cases (P : State → Prop) (k : Word → State → State)
    (low : s.half = false → P (((s.portRead s.params.e2pCmd).setLatch (s.readValue s.params.e2pCmd)).setHalf true))
    (busy : s.half = true → busyBit s.cmdValue = true →
      P (((s.portRead (s.params.e2pCmd + 2)).setHalf false).setLastCmd s.cmdValue))
    (done : s.half = true → busyBit s.cmdValue = false →
      P (k s.cmdValue (((s.portRead (s.params.e2pCmd + 2)).setHalf false).setLastCmd s.cmdValue))) :
    P (s.poll k) := by
  cases h : s.half with
  | false => rw [State.poll_low k h]; exact low h
  | true =>
    cases hb : busyBit s.cmdValue with
    | false => rw [State.poll_done k h hb]; exact done h hb
    | true => rw [State.poll_busy k h hb]; exact busy h hb

/-- Everything a transaction of the timeout check can do (R124, R142). -/
theorem State.checkTimeout_cases (P : State → Prop) (k : Word → State → State)
    (low : s.half = false → P (((s.portRead s.params.e2pCmd).setLatch (s.readValue s.params.e2pCmd)).setHalf true))
    (fatal : s.half = true → timeoutBit s.cmdValue = true →
      P (((((((s.portRead (s.params.e2pCmd + 2)).setHalf false).setLastCmd s.cmdValue).setTo true).setRes
        s.cmdValue)).finish .fatalTimeout))
    (ok : s.half = true → timeoutBit s.cmdValue = false →
      P (k s.cmdValue ((((s.portRead (s.params.e2pCmd + 2)).setHalf false).setLastCmd s.cmdValue).setTo false))) :
    P (s.checkTimeout k) := by
  unfold State.checkTimeout
  cases h : s.half with
  | false => rw [State.readRegister_low _ _ h]; exact low h
  | true =>
    rw [State.readRegister_high _ _ h]
    by_cases hb : timeoutBit s.cmdValue = true
    · rw [if_pos hb]; exact fatal h hb
    · rw [if_neg hb]; exact ok h (by simpa using hb)

/-! ## Steps of a request -/

/-- R168, R174: the acceptance step. -/
theorem State.runRequest_ready (i : Instr) (f : Format) (start : State → State)
    (go : State → Result) (h : s.ready = true) :
    s.runRequest i f start go = .next (start (s.accept f (encode i))) := by
  simp [State.runRequest, h]

/-- R174: a transaction step. -/
theorem State.runRequest_running (i : Instr) (f : Format) (start : State → State)
    (go : State → Result) (h : s.ready = false) (hh : s.halted = false) (hr : s.req = encode i) :
    s.runRequest i f start go = go s := by
  simp [State.runRequest, h, hh, hr]

/-- R21, R193: a discarded request. -/
theorem State.runRequest_discarded (i : Instr) (f : Format) (start : State → State)
    (go : State → Result) (h : s.ready = false) (hn : s.halted = true ∨ s.req ≠ encode i) :
    s.runRequest i f start go = .next s := by
  rcases hn with hn | hn <;> simp [State.runRequest, h, hn]

/-- Everything a step of a request can do. -/
theorem State.runRequest_cases (P : Result → Prop) (i : Instr) (f : Format)
    (start : State → State) (go : State → Result)
    (accepted : s.ready = true → P (.next (start (s.accept f (encode i)))))
    (running : s.ready = false → s.halted = false → s.req = encode i → P (go s))
    (discarded : s.ready = false → (s.halted = true ∨ s.req ≠ encode i) → P (.next s)) :
    P (s.runRequest i f start go) := by
  cases h : s.ready with
  | true => rw [State.runRequest_ready i f start go h]; exact accepted h
  | false =>
    by_cases hh : s.halted = false ∧ s.req = encode i
    · rw [State.runRequest_running i f start go h hh.1 hh.2]; exact running h hh.1 hh.2
    · have hn : s.halted = true ∨ s.req ≠ encode i := by
        by_cases ht : s.halted = true
        · exact .inl ht
        · exact .inr fun e => hh ⟨by simpa using ht, e⟩
      rw [State.runRequest_discarded i f start go h hn]; exact discarded h hn

/-! ## Cell operations -/

/-- Everything a transaction of a cell operation can do (R172): one case for each point of the operation, and
the fault at any other. -/
theorem State.cellStep_cases (P : Result → Prop) (op : CellOp) (k : Word → State → State)
    (prewait : s.cmdst = .prewait →
      P (.next (s.poll (fun _ => State.setCmdst op.afterPrewait))))
    (data : s.cmdst = .data → op = .write →
      P (.next (s.writeRegister s.params.e2pData (dataWord s.curData)
        (State.setCmdst .issue1))))
    (issue1 : s.cmdst = .issue1 → P (.next (s.issue1 op.cmd (cellAddr s.cell))))
    (issue2 : s.cmdst = .issue2 →
      P (.next (s.issue2 op.cmd (cellAddr s.cell) (State.setCmdst .busy))))
    (busy : s.cmdst = .busy → P (.next (s.poll (op.afterBusy k))))
    (check : s.cmdst = .check → op = .unlock → P (.next (s.checkTimeout k)))
    (read : s.cmdst = .read → op = .read → P (.next (s.readRegister s.params.e2pData k)))
    (stop : P (.fault .noSuchPoint)) :
    P (s.cellStep op k) := by
  unfold State.cellStep
  split
  · exact prewait ‹_›
  · split
    · exact data ‹_› ‹_›
    · exact stop
  · exact issue1 ‹_›
  · exact issue2 ‹_›
  · exact busy ‹_›
  · split
    · exact check ‹_› ‹_›
    · exact stop
  · split
    · exact read ‹_› ‹_›
    · exact stop
  all_goals exact stop

end Sys2Proof.Machine
end

