-- ==== Sys2Proof/Laws/PerInstr.lean ====
section
/-! SUPPORT. The family RowBits: every instruction's word has its opcode-table row's bits. -/

namespace Sys2Proof.Laws

/-- An encoded instruction matches its row of spec/opcode_table.json under the row's mask. -/
def RowBits.Statement (i : Instr) : Prop := encode i &&& i.maskBits = i.matchBits

theorem RowBits.writeReg (off : BitVec 12) : RowBits.Statement (.writeReg off) := by
  change (0x1#4 ++ off ++ 0#16) &&&
    (0xF#4 ++ 0#12 ++ 0xFFFF#16) = 0x1#4 ++ 0#12 ++ 0#16
  simp only [BitVec.and_append]
  simp

theorem RowBits.readReg (off : BitVec 12) : RowBits.Statement (.readReg off) := by
  change (0x2#4 ++ off ++ 0#16) &&&
    (0xF#4 ++ 0#12 ++ 0xFFFF#16) = 0x2#4 ++ 0#12 ++ 0#16
  simp only [BitVec.and_append]
  simp

theorem RowBits.readMacShadow (idx : BitVec 1) : RowBits.Statement (.readMacShadow idx) := by
  change (0x3#4 ++ 0#11 ++ idx ++ 0#16) &&&
    (0xF#4 ++ 0x7FF#11 ++ 0#1 ++ 0xFFFF#16) = 0x3#4 ++ 0#11 ++ 0#1 ++ 0#16
  simp only [BitVec.and_append]
  simp

theorem RowBits.waitIdle : RowBits.Statement .waitIdle := by
  unfold RowBits.Statement; decide

theorem RowBits.submit (cmd : Cmd) (addr : BitVec 8) : RowBits.Statement (.submit cmd addr) := by
  change (0x5#4 ++ 0#9 ++ cmd.code ++ addr ++ 0#8) &&&
    (0xF#4 ++ 0x1FF#9 ++ 0#3 ++ 0#8 ++ 0xFF#8) = 0x5#4 ++ 0#9 ++ 0#3 ++ 0#8 ++ 0#8
  simp only [BitVec.and_append]
  simp

theorem RowBits.readCell (addr : BitVec 8) : RowBits.Statement (.readCell addr) := by
  change (0x6#4 ++ 0#12 ++ addr ++ 0#8) &&&
    (0xF#4 ++ 0xFFF#12 ++ 0#8 ++ 0xFF#8) = 0x6#4 ++ 0#12 ++ 0#8 ++ 0#8
  simp only [BitVec.and_append]
  simp

theorem RowBits.enableWrite : RowBits.Statement .enableWrite := by
  unfold RowBits.Statement; decide

theorem RowBits.writeCell (addr data : BitVec 8) : RowBits.Statement (.writeCell addr data) := by
  change (0x8#4 ++ 0#12 ++ addr ++ data) &&&
    (0xF#4 ++ 0xFFF#12 ++ 0#8 ++ 0#8) = 0x8#4 ++ 0#12 ++ 0#8 ++ 0#8
  simp only [BitVec.and_append]
  simp

theorem RowBits.disableWrite : RowBits.Statement .disableWrite := by
  unfold RowBits.Statement; decide

theorem RowBits.dump : RowBits.Statement .dump := by
  unfold RowBits.Statement; decide

theorem RowBits.programAddress : RowBits.Statement .programAddress := by
  unfold RowBits.Statement; decide

theorem RowBits.e2pRead (f : CmdFields) : RowBits.Statement (.e2pRead f) := by
  change (f.busy ++ Cmd.read.code ++ f.undescribed ++ f.timeout ++ f.macAddrLoaded ++ f.addr) &&&
    (0#1 ++ 7#3 ++ 0#18 ++ 0#1 ++ 0#1 ++ 0#8) = 0#1 ++ 0#3 ++ 0#18 ++ 0#1 ++ 0#1 ++ 0#8
  simp only [BitVec.and_append]
  simp [Cmd.code]

theorem RowBits.e2pEwds (f : CmdFields) : RowBits.Statement (.e2pEwds f) := by
  change (f.busy ++ Cmd.ewds.code ++ f.undescribed ++ f.timeout ++ f.macAddrLoaded ++ f.addr) &&&
    (0#1 ++ 7#3 ++ 0#18 ++ 0#1 ++ 0#1 ++ 0#8) = 0#1 ++ 1#3 ++ 0#18 ++ 0#1 ++ 0#1 ++ 0#8
  simp only [BitVec.and_append]
  simp [Cmd.code]

theorem RowBits.e2pEwen (f : CmdFields) : RowBits.Statement (.e2pEwen f) := by
  change (f.busy ++ Cmd.ewen.code ++ f.undescribed ++ f.timeout ++ f.macAddrLoaded ++ f.addr) &&&
    (0#1 ++ 7#3 ++ 0#18 ++ 0#1 ++ 0#1 ++ 0#8) = 0#1 ++ 2#3 ++ 0#18 ++ 0#1 ++ 0#1 ++ 0#8
  simp only [BitVec.and_append]
  simp [Cmd.code]

theorem RowBits.e2pWrite (f : CmdFields) : RowBits.Statement (.e2pWrite f) := by
  change (f.busy ++ Cmd.write.code ++ f.undescribed ++ f.timeout ++ f.macAddrLoaded ++ f.addr) &&&
    (0#1 ++ 7#3 ++ 0#18 ++ 0#1 ++ 0#1 ++ 0#8) = 0#1 ++ 3#3 ++ 0#18 ++ 0#1 ++ 0#1 ++ 0#8
  simp only [BitVec.and_append]
  simp [Cmd.code]

theorem RowBits.e2pWral (f : CmdFields) : RowBits.Statement (.e2pWral f) := by
  change (f.busy ++ Cmd.wral.code ++ f.undescribed ++ f.timeout ++ f.macAddrLoaded ++ f.addr) &&&
    (0#1 ++ 7#3 ++ 0#18 ++ 0#1 ++ 0#1 ++ 0#8) = 0#1 ++ 4#3 ++ 0#18 ++ 0#1 ++ 0#1 ++ 0#8
  simp only [BitVec.and_append]
  simp [Cmd.code]

theorem RowBits.e2pErase (f : CmdFields) : RowBits.Statement (.e2pErase f) := by
  change (f.busy ++ Cmd.erase.code ++ f.undescribed ++ f.timeout ++ f.macAddrLoaded ++ f.addr) &&&
    (0#1 ++ 7#3 ++ 0#18 ++ 0#1 ++ 0#1 ++ 0#8) = 0#1 ++ 5#3 ++ 0#18 ++ 0#1 ++ 0#1 ++ 0#8
  simp only [BitVec.and_append]
  simp [Cmd.code]

theorem RowBits.e2pEral (f : CmdFields) : RowBits.Statement (.e2pEral f) := by
  change (f.busy ++ Cmd.eral.code ++ f.undescribed ++ f.timeout ++ f.macAddrLoaded ++ f.addr) &&&
    (0#1 ++ 7#3 ++ 0#18 ++ 0#1 ++ 0#1 ++ 0#8) = 0#1 ++ 6#3 ++ 0#18 ++ 0#1 ++ 0#1 ++ 0#8
  simp only [BitVec.and_append]
  simp [Cmd.code]

theorem RowBits.e2pReload (f : CmdFields) : RowBits.Statement (.e2pReload f) := by
  change (f.busy ++ Cmd.reload.code ++ f.undescribed ++ f.timeout ++ f.macAddrLoaded ++ f.addr) &&&
    (0#1 ++ 7#3 ++ 0#18 ++ 0#1 ++ 0#1 ++ 0#8) = 0#1 ++ 7#3 ++ 0#18 ++ 0#1 ++ 0#1 ++ 0#8
  simp only [BitVec.and_append]
  simp [Cmd.code]

theorem RowBits.macCsrReadShadow (index : BitVec 1) : RowBits.Statement (.macCsrReadShadow index) := by
  change (0x60000000#31 ++ index) &&&
    (0x7FFFFFFF#31 ++ 0#1) = 0x60000000#31 ++ 0#1
  simp only [BitVec.and_append]
  simp

end Sys2Proof.Laws
end

