-- ==== Sys2Proof/Laws/Run.lean ====
section
/-! SUPPORT. Runs of many steps, taken apart. -/

namespace Sys2Proof.Machine

@[simp] theorem run_zero (s : State) : run 0 s = .next s := rfl

theorem run_succ (n : Nat) (s t : State) (h : step s = .next t) : run (n + 1) s = run n t := by
  simp only [run, Host.Core.run]
  rw [show Host.Core.step Sys2Proof.core s = .next t from h]

/-- Two runs one after the other. -/
theorem run_add (m n : Nat) : ∀ (s t : State), run m s = .next t → run (m + n) s = run n t := by
  induction m with
  | zero =>
    intro s t h
    cases h
    rw [Nat.zero_add]
  | succ m ih =>
    intro s t h
    rw [Nat.add_right_comm]
    cases hs : step s with
    | next u => rw [run_succ _ s u hs] at h ⊢; exact ih u t h
    | fault r =>
      simp only [run, Host.Core.run] at h
      rw [show Host.Core.step Sys2Proof.core s = .fault r from hs] at h
      cases h
    | refused r =>
      simp only [run, Host.Core.run] at h
      rw [show Host.Core.step Sys2Proof.core s = .refused r from hs] at h
      cases h

end Sys2Proof.Machine
end

