-- ==== Sys2Proof/Machine/AsmText.lean ====
section
/-! DEFINITION. The text of host programs (30_encoding.md R82, R83) and of bus traces (R84, 00_scope.md R13). Text is a list
of characters. A line outside the syntax, or with a number that does not fit its field, is no line. -/

namespace Sys2Proof.Machine

/-! ## Characters, words, numbers -/

/-- R82: `;` starts a comment. -/
def cutComment : List Char → List Char
  | [] => []
  | c :: cs => if c = ';' then [] else c :: cutComment cs

/-- White space between words. -/
def isBlank (c : Char) : Bool := c = ' ' || c = '\t'

/-- White space off both ends. -/
def trimBlanks (cs : List Char) : List Char :=
  ((cs.dropWhile isBlank).reverse.dropWhile isBlank).reverse

/-- The parts between separators; `cur` is the part so far, last character first. -/
def splitAtChar (sep : Char) : List Char → List Char → List (List Char)
  | cur, [] => [cur.reverse]
  | cur, c :: cs => if c = sep then cur.reverse :: splitAtChar sep [] cs else splitAtChar sep (c :: cur) cs

/-- A digit of a number of the given base. -/
def digitOf (base : Nat) (c : Char) : Option Nat :=
  let d :=
    if '0' ≤ c ∧ c ≤ '9' then some (c.toNat - '0'.toNat)
    else if 'a' ≤ c ∧ c ≤ 'f' then some (c.toNat - 'a'.toNat + 10)
    else if 'A' ≤ c ∧ c ≤ 'F' then some (c.toNat - 'A'.toNat + 10)
    else none
  d.filter (fun n => n < base)

/-- The digits after the value so far. -/
def digitsFrom (base : Nat) : Nat → List Char → Option Nat
  | n, [] => some n
  | n, c :: cs => (digitOf base c).bind (fun d => digitsFrom base (n * base + d) cs)

/-- At least one digit. -/
def digits (base : Nat) (cs : List Char) : Option Nat := if cs = [] then none else digitsFrom base 0 cs

/-- R82: hexadecimal with `0x`, or decimal; a number that needs more than `w` bits is none. -/
def number (w : Nat) (cs : List Char) : Option (BitVec w) :=
  let n :=
    match cs with
    | '0' :: 'x' :: ds => digits 16 ds
    | ds => digits 10 ds
  (n.filter (fun m => m < 2 ^ w)).map (BitVec.ofNat w)

/-- One of the six pairs of an address: two hexadecimal digits (R82). -/
def hexPair (cs : List Char) : Option Byte :=
  if cs.length = 2 then (digits 16 cs).map (BitVec.ofNat 8) else none

/-- Six bytes. -/
def sixBytes : List (Option Byte) → Option (Vector Byte 6)
  | [some a, some b, some c, some d, some e, some f] => some #v[a, b, c, d, e, f]
  | _ => none

/-- `xx:xx:xx:xx:xx:xx` (R82). -/
def addressText (cs : List Char) : Option (Vector Byte 6) := sixBytes ((splitAtChar ':' [] cs).map hexPair)

/-- The mnemonics of R71. -/
def commandName : Cmd → String
  | .read => "READ" | .ewds => "EWDS" | .ewen => "EWEN" | .write => "WRITE"
  | .wral => "WRAL" | .erase => "ERASE" | .eral => "ERAL" | .reload => "RELOAD"

/-- The CMD code a mnemonic names (R82). -/
def commandText (cs : List Char) : Option Cmd :=
  [Cmd.read, .ewds, .ewen, .write, .wral, .erase, .eral, .reload].find? (fun c => (commandName c).toList == cs)

/-! ## Lines -/

/-- A line of no operand. -/
def plainLine (mnemonic : List Char) : Option Line :=
  if mnemonic = "wait_idle".toList then some (.request .waitIdle)
  else if mnemonic = "enable_write".toList then some (.request .enableWrite)
  else if mnemonic = "disable_write".toList then some (.request .disableWrite)
  else if mnemonic = "dump".toList then some (.request .dump)
  else if mnemonic = "program".toList then some (.request .programAddress)
  else if mnemonic = "poll".toList then some .poll
  else none

/-- A line of one operand. -/
def unaryLine (mnemonic a : List Char) : Option Line :=
  if mnemonic = "write_reg".toList then (number 12 a).map (fun off => .request (.writeReg off))
  else if mnemonic = "read_reg".toList then (number 12 a).map (fun off => .request (.readReg off))
  else if mnemonic = "read_mac".toList then (number 1 a).map (fun idx => .request (.readMacShadow idx))
  else if mnemonic = "read_cell".toList then (number 8 a).map (fun addr => .request (.readCell addr))
  else if mnemonic = "program_mac".toList then (addressText a).map Line.programMac
  else none

/-- A line of two operands. -/
def binaryLine (mnemonic a b : List Char) : Option Line :=
  if mnemonic = "submit".toList then
    (commandText a).bind (fun c => (number 8 b).map (fun addr => .request (.submit c addr)))
  else if mnemonic = "write_cell".toList then
    (number 8 a).bind (fun addr => (number 8 b).map (fun d => .request (.writeCell addr d)))
  else if mnemonic = "write_reg32".toList then
    (number 12 a).bind (fun off => (number 32 b).map (Line.writeReg32 off))
  else if mnemonic = "cmd".toList then (commandText a).bind (fun c => (number 8 b).map (Line.cmd c))
  else if mnemonic = "set".toList ∧ a = "ARG_VAL".toList then (number 32 b).map Line.setArgVal
  else if mnemonic = "set".toList ∧ a = "ARG_MAC".toList then (addressText b).map Line.setArgMac
  else none

/-- A line of six operands. -/
def sixLine (mnemonic : List Char) (rs : List (List Char)) : Option Line :=
  if mnemonic = "program_random".toList then (sixBytes (rs.map (number 8))).map Line.programRandom else none

/-- One line (R82, R83): the mnemonic, then operands between commas. -/
def parseLine (text : List Char) : Option Line :=
  let cs := trimBlanks (cutComment text)
  let mnemonic := cs.takeWhile (fun c => !isBlank c)
  let rest := trimBlanks (cs.dropWhile (fun c => !isBlank c))
  let operands := if rest = [] then [] else (splitAtChar ',' [] rest).map trimBlanks
  match operands with
  | [] => plainLine mnemonic
  | [a] => unaryLine mnemonic a
  | [a, b] => binaryLine mnemonic a b
  | rs => sixLine mnemonic rs

/-- A program's lines; a line with nothing but a comment is passed over. -/
def parseProgram : List (List Char) → Option (List Line)
  | [] => some []
  | l :: ls =>
    if trimBlanks (cutComment l) = [] then parseProgram ls
    else (parseLine l).bind (fun x => (parseProgram ls).map (fun xs => x :: xs))

/-! ## Bus traces -/

/-- A hexadecimal digit. -/
def hexDigit (n : Nat) : Char := ("0123456789ABCDEF".toList[n]?).getD '?'

/-- `n` as `k` hexadecimal digits after `0x`. -/
def hexText (k n : Nat) : List Char :=
  ['0', 'x'] ++ ((List.range k).map (fun i => hexDigit (n / 16 ^ i % 16))).reverse

/-- An offset in a trace: symbolic for the four device registers (R13), else the number. -/
def offsetText (p : Params) (o : Offset) : List Char :=
  if o = p.e2pCmd then "CMD".toList
  else if o = p.e2pCmd + 2 then "CMD+2".toList
  else if o = p.e2pData then "DATA".toList
  else if o = p.e2pData + 2 then "DATA+2".toList
  else if o = p.macCsrCmd then "CSRC".toList
  else if o = p.macCsrCmd + 2 then "CSRC+2".toList
  else if o = p.macCsrData then "CSRD".toList
  else if o = p.macCsrData + 2 then "CSRD+2".toList
  else hexText 3 o.toNat

/-- One event of a trace (R84). -/
def BusEvent.text (p : Params) : BusEvent → List Char
  | .write o v => "W ".toList ++ offsetText p o ++ " ".toList ++ hexText 4 v.toNat
  | .read o v => "R ".toList ++ offsetText p o ++ " -> ".toList ++ hexText 4 v.toNat

end Sys2Proof.Machine
end

