-- ==== Sys2Proof/Tests/Slice0.lean ====
section
/-! SUPPORT. Small tests: the words of spec/95_test_vectors.md section 3, one-step checks, and for every statement of
Certificates/Slice0/Obligations.lean that has hypotheses a state that meets them (`witness_<Name>`). Expected values are
the spec's own (vector or rule named beside each). -/

namespace Sys2Proof.Tests

open Sys2Proof Sys2Proof.Machine

/-! ## Helpers -/

/-- Offsets that R10 allows. -/
def port : Params :=
  { windowBase := 0, e2pCmd := 0x0B4, e2pData := 0x0B8, macCsrCmd := 0x0A4, macCsrData := 0x0A8 }

/-- A ready EPB whose live device will answer the given half-words. -/
def ready (answers : List Half := []) : State :=
  { State.reset with params := port, device := liveDevice answers 0 }

/-- The request `i` in progress at a program point. -/
def mid (i : Instr) (q : SeqSt) (c : CmdSt) (half : Bool) (answers : List Half := []) : State :=
  { ready answers with
    req := encode i, ready := false, curOp := reqOp (encode i), opst := reqOp (encode i)
    seqst := q, cmdst := c, half := half }

/-- The halted EPB of V-C5. -/
def halted : State :=
  { ready with
    ready := false, halted := true, outcome := .fatalTimeout, seqst := .halted, cmdst := .timeout
    toSeen := true, res := 0x00000200, lastCmd := 0x00000200 }

/-- A ready EPB with a reference device (RD3). -/
def bench (present : Bool) : State :=
  { ready with
    device :=
      { ref := some (RefDevice.initial 1 present 0x00000002 0x00003412), answers := [], draws := 0 } }

/-- A view of a step's next state. -/
def peek {α : Type} (r : Result) (f : State → α) : Option α :=
  match r with
  | .next t => some (f t)
  | .fault _ => none
  | .refused _ => none

/-! ## WellFormed: an ill-formed term for each check (R81, R192) -/

theorem test_illformed_writeReg_odd : (Instr.writeReg 0x101).wellFormed = false := by decide
theorem test_illformed_writeReg_high : (Instr.writeReg 0xFFE).wellFormed = false := by decide
theorem test_illformed_readReg_odd : (Instr.readReg 0x001).wellFormed = false := by decide
theorem test_illformed_readReg_high : (Instr.readReg 0xFFE).wellFormed = false := by decide
theorem test_illformed_readCell : (Instr.readCell 32).wellFormed = false := by decide
theorem test_illformed_writeCell : (Instr.writeCell 7 0x00).wellFormed = false := by decide
theorem test_wellformed_corners : (Instr.writeReg 0xFFC).wellFormed = true ∧ (Instr.readReg 0xFFC).wellFormed = true ∧
    (Instr.readCell 31).wellFormed = true ∧ (Instr.writeCell 6 0xFF).wellFormed = true := by decide

/-! ## Decoding: words written out from the spec's encodings (R77, R82; V-E1 to V-E11, V-D1 to V-D20) -/

theorem test_decode_writeReg : decodeTableWord 32 0x11000000 = some (.writeReg 0x100) := by decide -- R104
theorem test_decode_readReg : decodeTableWord 32 0x2FFC0000 = some (.readReg 0xFFC) := by decide -- R105, the last legal offset
theorem test_decode_readMacShadow : decodeTableWord 32 0x30010000 = some (.readMacShadow 1) := by decide -- R106
theorem test_decode_waitIdle : decodeTableWord 32 0x40000000 = some (.waitIdle) := by decide -- V-P1
theorem test_decode_submit : decodeTableWord 32 0x5003FF00 = some (.submit .write 0xFF) := by decide -- V-P8
theorem test_decode_readCell : decodeTableWord 32 0x60001F00 = some (.readCell 31) := by decide -- V-C3
theorem test_decode_enableWrite : decodeTableWord 32 0x70000000 = some (.enableWrite) := by decide -- V-C4
theorem test_decode_writeCell : decodeTableWord 32 0x80000642 = some (.writeCell 6 0x42) := by decide -- V-D17
theorem test_decode_disableWrite : decodeTableWord 32 0x90000000 = some (.disableWrite) := by decide -- V-C9
theorem test_decode_dump : decodeTableWord 32 0xA0000000 = some (.dump) := by decide -- V-S1
theorem test_decode_programAddress : decodeTableWord 32 0xB0000000 = some (.programAddress) := by decide -- V-S4

/-- The fields of a command word with only BUSY and ADDR set. -/
def fields (busy : BitVec 1) (addr : Byte) : CmdFields :=
  { busy := busy, undescribed := 0, timeout := 0, macAddrLoaded := 0, addr := addr }

theorem test_decode_e2pRead : decodeIn .e2pCmd 0x80000005 = .ok (.e2pRead (fields 1 0x05)) := by rfl -- V-E1
theorem test_decode_e2pEwds : decodeIn .e2pCmd 0x90000000 = .ok (.e2pEwds (fields 1 0x00)) := by rfl -- V-E2
theorem test_decode_e2pEwen : decodeIn .e2pCmd 0xA0000000 = .ok (.e2pEwen (fields 1 0x00)) := by rfl -- V-E3
theorem test_decode_e2pWrite : decodeIn .e2pCmd 0xB0000006 = .ok (.e2pWrite (fields 1 0x06)) := by rfl -- V-E4
theorem test_decode_e2pWral : decodeIn .e2pCmd 0xC00000FF = .ok (.e2pWral (fields 1 0xff)) := by rfl -- V-E5
theorem test_decode_e2pErase : decodeIn .e2pCmd 0x5000001F = .ok (.e2pErase (fields 0 0x1f)) := by rfl -- V-E6
theorem test_decode_e2pEral : decodeIn .e2pCmd 0xE0000000 = .ok (.e2pEral (fields 1 0x00)) := by rfl -- V-E7
theorem test_decode_e2pReload : decodeIn .e2pCmd 0xF0000000 = .ok (.e2pReload (fields 1 0x00)) := by rfl -- V-E8
theorem test_decode_command_flags : decodeIn .e2pCmd 0x30000306 = .ok (.e2pWrite { fields 0 6 with timeout := 1, macAddrLoaded := 1 }) := by rfl -- R70, bits 9 and 8
theorem test_decode_macCsrReadShadow : decodeIn .macCsrCmd 0xC0000001 = .ok (.macCsrReadShadow 1) := by rfl -- V-E11
theorem test_table_macCsrReadShadow : decodeTableWord 32 0xC0000001 = some (.macCsrReadShadow 1) := by decide -- V-E11
theorem test_table_e2pEral : decodeTableWord 32 0xE0000000 = some (.e2pEral (fields 1 0)) := by decide -- V-E7

/-- BAD_OP words: V-D1 to V-D4. -/
theorem test_badOp_words : decodeReq 0x00000000 = .error .badOp ∧ decodeReq 0xC0000000 = .error .badOp ∧
    decodeReq 0xF1234567 = .error .badOp ∧ decodeReq 0xC0000001 = .error .badOp := ⟨rfl, rfl, rfl, rfl⟩

/-- BAD_ARG by reserved bits: V-D8, V-D10 to V-D12, V-D14, V-D15, V-D18. -/
theorem test_badArg_words : decodeReq 0x11000001 = .error .badArg ∧ decodeReq 0x30020000 = .error .badArg ∧
    decodeReq 0x40000100 = .error .badArg ∧ decodeReq 0x50080000 = .error .badArg ∧
    decodeReq 0x60000501 = .error .badArg ∧ decodeReq 0x70000001 = .error .badArg ∧
    decodeReq 0xB0000100 = .error .badArg := ⟨rfl, rfl, rfl, rfl, rfl, rfl, rfl⟩

/-- V-E9. -/
theorem test_status_bits : busyBit 0x80000000 = true ∧ timeoutBit 0x80000000 = false ∧ busyBit 0x00000200 = false ∧
    timeoutBit 0x00000200 = true ∧ busyBit 0x7FFFFDFF = false ∧ timeoutBit 0x7FFFFDFF = false ∧
    timeoutBit 0x00000100 = false := by decide

/-! ## One step of each instruction -/

-- V-D5, V-D6: BAD_ARG with STATUS 0x00000011
theorem test_writeReg_badArg : peek (exec (.writeReg 0xFFE) ready) State.status = some 0x00000011 := by decide
-- V-T5, high half
theorem test_writeReg_high : peek (exec (.writeReg 0x100) { mid (.writeReg 0x100) .single .xfer true with
    curOff := 0x100, curVal := 0x12345678 }) (fun t => (t.trace, t.status)) =
    some ([.write 0x102 0x1234], 0x00070005) := by decide
-- V-D9
theorem test_readReg_badArg : peek (exec (.readReg 0x001) ready) State.status = some 0x00000011 := by decide
-- V-T7: 0x0001 was latched, the device answers 0x8000
theorem test_readReg_torn : peek (exec (.readReg 0x200) { mid (.readReg 0x200) .single .xfer true [0x8000] with
    curOff := 0x200, latchLo := 0x0001 }) (fun t => (t.res, t.status)) = some (0x80000001, 0x00070005) := by decide
-- V-T9, second event
theorem test_readMacShadow_command : peek (exec (.readMacShadow 1) { mid (.readMacShadow 1) .single .xfer true with
    curIdx := 1 }) State.trace = some [.write 0x0A6 0xC000] := by decide
-- V-T9, last event
theorem test_readMacShadow_value : peek (exec (.readMacShadow 1) { mid (.readMacShadow 1) .single .xfer true [0x0000] with
    curIdx := 1, macReading := true, latchLo := 0x3412 }) (fun t => (t.res, t.status, t.lastCmd)) =
    some (0x00003412, 0x00070005, 0) := by decide
-- V-P4: STATUS before the first read
theorem test_waitIdle_accept : peek (exec .waitIdle ready) State.status = some 0x00051400 := by decide
-- V-P3: TIMEOUT is no part of a poll
theorem test_waitIdle_last : peek (exec .waitIdle { mid .waitIdle .single .busy true [0x0000] with latchLo := 0x0200 })
    (fun t => (t.res, t.lastCmd, t.status)) = some (0x00000200, 0x00000200, 0x00070005) := by decide
-- V-P8, last event
theorem test_submit_last : peek (exec (.submit .write 0xFF) { mid (.submit .write 0xFF) .single .issue2 true with
    curCmd := .write, curAddr := 0xFF }) (fun t => (t.trace, t.status)) = some ([.write 0x0B6 0xB000], 0x00070005) := by decide
-- V-P8, first event
theorem test_submit_first : peek (exec (.submit .write 0xFF) { mid (.submit .write 0xFF) .single .issue1 false with
    curCmd := .write, curAddr := 0xFF }) State.trace = some [.write 0x0B4 0x00FF] := by decide
-- V-C1, STATUS before transaction 1
theorem test_readCell_accept : peek (exec (.readCell 5) ready) State.status = some 0x00511600 := by decide
-- V-C3, last event: 0xAB12 was latched
theorem test_readCell_byte : peek (exec (.readCell 31) { mid (.readCell 31) .single .read true [0xFFFF] with
    cell := 31, latchLo := 0xAB12 }) (fun t => (t.res, t.status)) = some (0x00000012, 0x00070005) := by decide
-- V-C5, last event
theorem test_enableWrite_timeout : peek (exec .enableWrite { mid .enableWrite .single .check true [0x0000] with
    latchLo := 0x0200 }) (fun t => (t.res, t.lastCmd, t.status)) = some (0x00000200, 0x00000200, 0x0408700A) := by decide
-- V-C6, last event
theorem test_enableWrite_ok : peek (exec .enableWrite { mid .enableWrite .single .check true [0x0000] with
    lastCmd := 0x00000200 }) (fun t => (t.res, t.status)) = some (0x00000000, 0x00070005) := by decide
-- V-D16
theorem test_writeCell_badArg : peek (exec (.writeCell 7 0x00) ready) State.status = some 0x00000011 := by decide
-- V-C8, last event: TIMEOUT is ignored
theorem test_writeCell_last : peek (exec (.writeCell 0 0xFF) { mid (.writeCell 0 0xFF) .single .busy true [0x0000] with
    latchLo := 0x0200 }) (fun t => (t.res, t.status)) = some (0x00000000, 0x00070005) := by decide
-- V-C9, fourth event
theorem test_disableWrite_issue1 : peek (exec .disableWrite (mid .disableWrite .single .issue1 true))
    (fun t => (t.trace, t.cmdst)) = some ([.write 0x0B6 0x1000], .issue2) := by decide
-- R161: cell 30 is followed by cell 31
theorem test_dump_next : peek (exec .dump { mid .dump .dumpPre .read true [0x0000] with
    cell := 30, latchLo := 0x00FF }) (fun t => (t.preImg[30], t.cell, t.cmdst)) = some (0xFF, 31, .prewait) := by decide
-- R162: after the post-wait of cell 0 the first address byte is next
theorem test_programAddress_first_byte : peek (exec .programAddress { mid .programAddress .write .busy true [0x0000] with
    curMac := #v[2, 0, 0, 0, 0, 1] }) (fun t => (t.cell, t.curData, t.seqst)) = some (1, 2, .write) := by decide
-- R164: cell 6 takes the sixth byte
theorem test_programAddress_last_byte : peek (exec .programAddress { mid .programAddress .write .busy true [0x0000] with
    cell := 5, curMac := #v[2, 0, 0, 0, 0, 1] }) (fun t => (t.cell, t.curData, t.seqst)) = some (6, 1, .write) := by decide

theorem test_e2pRead_halves : peek (exec (.e2pRead (fields 1 0x05)) ready) State.trace =
    some [.write 0x0B4 0x0005, .write 0x0B6 0x8000] := by decide -- V-E1, R73
theorem test_e2pEwds_halves : peek (exec (.e2pEwds (fields 1 0x00)) ready) State.trace =
    some [.write 0x0B4 0x0000, .write 0x0B6 0x9000] := by decide -- V-E2, R73
theorem test_e2pEwen_halves : peek (exec (.e2pEwen (fields 1 0x00)) ready) State.trace =
    some [.write 0x0B4 0x0000, .write 0x0B6 0xA000] := by decide -- V-E3, R73
theorem test_e2pWrite_halves : peek (exec (.e2pWrite (fields 1 0x06)) ready) State.trace =
    some [.write 0x0B4 0x0006, .write 0x0B6 0xB000] := by decide -- V-E4, R73
theorem test_e2pWral_halves : peek (exec (.e2pWral (fields 1 0xff)) ready) State.trace =
    some [.write 0x0B4 0x00FF, .write 0x0B6 0xC000] := by decide -- V-E5, R73
theorem test_e2pErase_halves : peek (exec (.e2pErase (fields 0 0x1f)) ready) State.trace =
    some [.write 0x0B4 0x001F, .write 0x0B6 0x5000] := by decide -- V-E6, R73
theorem test_e2pEral_halves : peek (exec (.e2pEral (fields 1 0x00)) ready) State.trace =
    some [.write 0x0B4 0x0000, .write 0x0B6 0xE000] := by decide -- V-E7, R73
theorem test_e2pReload_halves : peek (exec (.e2pReload (fields 1 0x00)) ready) State.trace =
    some [.write 0x0B4 0x0000, .write 0x0B6 0xF000] := by decide -- V-E8, R73
theorem test_macCsrReadShadow_halves : peek (exec (.macCsrReadShadow 1) ready) State.trace =
    some [.write 0x0A4 0x0001, .write 0x0A6 0xC000] := by decide -- V-E11

/-! ## The host's side -/

/-- W2: the fixup of 0x11 is 0x12; W4's corners. -/
theorem test_fixup : (fixupAddress #v[0x11, 0x22, 0x33, 0x44, 0x55, 0x66])[0] = 0x12 ∧
    (fixupAddress #v[0x00, 0, 0, 0, 0, 0])[0] = 0x02 ∧ (fixupAddress #v[0xFF, 0, 0, 0, 0, 0])[0] = 0xFE ∧
    (fixupAddress #v[0xFD, 0, 0, 0, 0, 0])[0] = 0xFE := by decide

/-- V-X1: a request written to the halted EPB is discarded. -/
theorem test_halted_discards : peek (step { halted with inputs := [.writeReq 0x90000000] })
    (fun t => (t.status, t.trace, t.req)) = some (0x0408700A, [], 0) := by decide

/-- V-X2: reset leaves S_HALTED. -/
theorem test_halted_reset : peek (step { halted with inputs := [.reset] })
    (fun t => (t.status, t.res, t.lastCmd)) = some (0x00000001, 0, 0) := by decide

-- R82, R83, R84: the text
theorem test_text_submit : parseLine "submit WRITE, 0xFF ; V-P8".toList = some (.request (.submit .write 0xFF)) := by decide
theorem test_text_program_mac : parseLine "program_mac 02:00:00:00:00:01".toList =
    some (.programMac #v[2, 0, 0, 0, 0, 1]) := by decide
theorem test_text_read_cell_decimal : parseLine "read_cell 32".toList = some (.request (.readCell 0x20)) := by decide
theorem test_text_event : BusEvent.text port (.read 0x0B6 0x8000) = "R CMD+2 -> 0x8000".toList := by decide

/-! ## Invariant states -/

/-- A request in progress at one of its points is an invariant state. -/
theorem inv_of_running (s : State) (i : Instr) (hp : s.params.valid = true) (hw : Memory.wf s.window = true)
    (hr : s.running i) (hq : s.seqst ≠ .idle ∧ s.seqst ≠ .halted)
    (ho : s.curOp = reqOp s.req ∧ s.opst = reqOp s.req) (hd : decodeReq s.req = .ok i)
    (hf : i.wellFormed = true) (hpt : s.pointOf i) : s.Inv where
  params := hp
  window := hw
  ready := by rw [hr.1]; exact ⟨fun h => absurd h Bool.false_ne_true, fun h => absurd h hq.1⟩
  halted := by rw [hr.2.1]; exact ⟨fun h => absurd h Bool.false_ne_true, fun h => absurd h hq.2⟩
  idle := fun h => absurd h hq.1
  halt := fun h => absurd h hq.2
  running := fun _ _ => ⟨ho.1, ho.2, i, hd, hf, hpt⟩

theorem ready_inv (ins : List Input) : State.Inv { ready [] with inputs := ins } where
  params := (by decide : port.valid = true)
  window := rfl
  ready := ⟨fun _ => rfl, fun _ => rfl⟩
  halted := ⟨fun h => absurd h Bool.false_ne_true, fun h => absurd h (by decide : SeqSt.idle ≠ .halted)⟩
  idle := fun _ => ⟨⟨rfl, rfl, rfl, rfl⟩, .inr ⟨rfl, .inl rfl⟩⟩
  halt := fun h => absurd h (by decide : SeqSt.idle ≠ .halted)
  running := fun h _ => absurd rfl h

theorem halted_inv (ins : List Input) : State.Inv { halted with inputs := ins } where
  params := (by decide : port.valid = true)
  window := rfl
  ready := ⟨fun h => absurd h Bool.false_ne_true, fun h => absurd h (by decide : SeqSt.halted ≠ .idle)⟩
  halted := ⟨fun _ => rfl, fun _ => rfl⟩
  idle := fun h => absurd h (by decide : SeqSt.halted ≠ .idle)
  halt := fun _ => ⟨⟨rfl, rfl, rfl, rfl⟩, rfl, rfl, rfl, (by decide : timeoutBit 0x00000200 = true), rfl⟩
  running := fun _ h => absurd rfl h

/-- The last poll of a WAIT_IDLE, whose value is new. -/
def pollEnd : State := { mid .waitIdle .single .busy true [0x0000] with latchLo := 0x0200 }

/-- The check of an ENABLE_WRITE that sees TIMEOUT. -/
def checkEnd : State := { mid .enableWrite .single .check true [0x0000] with latchLo := 0x0200, curCmd := .ewen }

/-- The data read of the last cell of a DUMP. -/
def dumpEnd : State :=
  { mid .dump .dumpPre .read true [0x0000] with latchLo := 0x0042, cell := 31, curAddr := 31 }

/-- The data read of the last cell of the second dump of a PROGRAM_ADDRESS. -/
def programEnd : State :=
  { mid .programAddress .dumpPost .read true [0x0000] with latchLo := 0x0042, cell := 31, curAddr := 31 }

theorem pollEnd_inv : pollEnd.Inv :=
  inv_of_running _ .waitIdle (by decide) (by decide) ⟨rfl, rfl, rfl⟩ (by decide) ⟨rfl, rfl⟩ rfl rfl
    ⟨rfl, rfl, rfl, rfl⟩

theorem checkEnd_inv : checkEnd.Inv :=
  inv_of_running _ .enableWrite (by decide) (by decide) ⟨rfl, rfl, rfl⟩ (by decide) ⟨rfl, rfl⟩ rfl rfl
    ⟨rfl, rfl, rfl, rfl, rfl⟩

theorem dumpEnd_inv : dumpEnd.Inv :=
  inv_of_running _ .dump (by decide) (by decide) ⟨rfl, rfl, rfl⟩ (by decide) ⟨rfl, rfl⟩ rfl rfl
    ⟨rfl, rfl, rfl, rfl, rfl⟩

theorem programEnd_inv : programEnd.Inv :=
  inv_of_running _ .programAddress (by decide) (by decide) ⟨rfl, rfl, rfl⟩ (by decide) ⟨rfl, rfl⟩ rfl rfl
    ⟨rfl, .inl ⟨.inr rfl, rfl, rfl, rfl⟩⟩

/-! ## Witnesses: states that meet the hypotheses of the statements -/

theorem witness_ResetEventResetsOnlyTheEpb :
    State.inputs { checkEnd with inputs := [.reset, .tick] } = .reset :: [.tick] ∧ checkEnd.half = true ∧
    State.inputs { halted with inputs := [.reset] } = .reset :: [] := ⟨rfl, rfl, rfl⟩

theorem witness_StepKeepsInvariant :
    (State.Inv { ready [] with inputs := [.writeReq 0x60000500] } ∧
      ∃ t, step { ready [] with inputs := [.writeReq 0x60000500] } = .next t) ∧
    (pollEnd.Inv ∧ ∃ t, step pollEnd = .next t) ∧ (checkEnd.Inv ∧ ∃ t, step checkEnd = .next t) ∧
    (State.Inv { halted with inputs := [.reset] } ∧ ∃ t, step { halted with inputs := [.reset] } = .next t) :=
  ⟨⟨ready_inv _, _, rfl⟩, ⟨pollEnd_inv, _, rfl⟩, ⟨checkEnd_inv, _, rfl⟩, ⟨halted_inv _, _, rfl⟩⟩

theorem witness_InvariantStatesNeverStop :
    State.Inv { ready [] with inputs := [] } ∧ State.Inv { halted with inputs := [] } ∧ dumpEnd.Inv ∧ programEnd.Inv :=
  ⟨ready_inv _, halted_inv _, dumpEnd_inv, programEnd_inv⟩

theorem witness_EncodeOfDecode :
    decodeIn .request 0x80000642 = .ok (.writeCell 6 0x42) ∧ decodeIn .e2pCmd 0xC00000FF = .ok (.e2pWral (fields 1 0xFF)) ∧
    decodeIn .macCsrCmd 0xC0000000 = .ok (.macCsrReadShadow 0) := ⟨rfl, rfl, rfl⟩

theorem witness_RequestSelectedByMaskAndMatch : decodeReq 0x5007FF00 = .ok (.submit .reload 0xFF) := rfl

theorem witness_RejectedRequestWords :
    reqOp 0x0FFFFFFF = 0 ∧ 0xC ≤ (reqOp 0xC0000000).toNat ∧ (reqOp 0xB0000100).toNat = 0xB ∧
    (reqOp 0xB0000100 = Op.programAddress.code ∧
      (0xB0000100 : Word) &&& Op.programAddress.mask ≠ Op.programAddress.matchBits) ∧
    decodeReq 0xC0000000 = .error .badOp ∧ decodeReq 0xB0000100 = .error .badArg :=
  ⟨by decide, by decide, by decide, by decide, rfl, rfl⟩

theorem witness_StepRunsDecodedInstruction :
    (State.ready { ready [] with inputs := [.writeReq 0xA0000000] } = true ∧ decodeReq 0xA0000000 = .ok .dump) ∧
    (pollEnd.ready = false ∧ pollEnd.halted = false ∧ decodeReq pollEnd.req = .ok .waitIdle ∧ pollEnd.inputs = []) ∧
    State.inputs { pollEnd with inputs := [.tick] } = .tick :: [] ∧
    State.inputs { pollEnd with inputs := [.poll] } = .poll :: [] ∧
    State.inputs { ready [] with inputs := [.command 0xF0000000] } = .command 0xF0000000 :: [] ∧
    State.inputs { ready [] with inputs := [.indirect 1] } = .indirect 1 :: [] :=
  ⟨⟨rfl, rfl⟩, ⟨rfl, rfl, rfl, rfl⟩, rfl, rfl, rfl, rfl⟩

theorem witness_RequestAcceptedOnlyWhenReady :
    State.ready { pollEnd with inputs := [.writeReq 0x40000000] } = false ∧
    State.ready { halted with inputs := [.writeReq 0x90000000] } = false ∧
    State.ready { ready [] with inputs := [.writeReq 0x5007FF00] } = true ∧ reqOp 0x5007FF00 = Op.submit.code ∧
    (0x5007FF00 : Word) &&& Op.submit.mask = Op.submit.matchBits := by decide

theorem witness_ReservedOpIsBadOp :
    (ready []).ready = true ∧ (ready []).halted = false ∧ reqOp 0x00000000 = 0 ∧ reqOp 0x0FFFFFFF = 0 ∧
    0xC ≤ (reqOp 0xC0000001).toNat ∧ 0xC ≤ (reqOp 0xF1234567).toNat := by decide

theorem witness_BadOperandsAreBadArg :
    (ready []).ready = true ∧ (ready []).halted = false ∧
    (reqOp 0x11000001 = Op.writeReg.code ∧ (0x11000001 : Word) &&& Op.writeReg.mask ≠ Op.writeReg.matchBits) ∧
    (0x11010000 = encode (.writeReg 0x101) ∧ (0x101 : Offset).toNat % 2 = 1) ∧
    (0x2FFE0000 = encode (.readReg 0xFFE) ∧ (0xFFE : Offset).toNat > 0xFFC) ∧
    (0x60002000 = encode (.readCell 32) ∧ (32 : Byte).toNat > 31) ∧
    (0x80000700 = encode (.writeCell 7 0) ∧ (7 : Byte).toNat > 6) := by decide

theorem witness_AcceptanceLatchesAndKeeps :
    (ready []).ready = true ∧ (ready []).halted = false ∧
    (Instr.space (.writeReg 0xFFC) = .request ∧ Instr.wellFormed (.writeReg 0xFFC) = true) ∧
    (Instr.space (.readMacShadow 1) = .request ∧ Instr.wellFormed (.readMacShadow 1) = true) ∧
    (Instr.space (.submit .reload 0xFF) = .request ∧ Instr.wellFormed (.submit .reload 0xFF) = true) ∧
    (Instr.space (.readCell 31) = .request ∧ Instr.wellFormed (.readCell 31) = true) ∧
    (Instr.space (.writeCell 6 0xFF) = .request ∧ Instr.wellFormed (.writeCell 6 0xFF) = true) ∧
    (Instr.space .waitIdle = .request ∧ Instr.wellFormed .waitIdle = true) ∧
    (Instr.space .enableWrite = .request ∧ Instr.wellFormed .enableWrite = true) ∧
    (Instr.space .disableWrite = .request ∧ Instr.wellFormed .disableWrite = true) ∧
    (Instr.space .dump = .request ∧ Instr.wellFormed .dump = true) := by decide

theorem witness_NoStepWithoutRequest :
    (ready []).inputs = [] ∧ (ready []).ready = true ∧ halted.inputs = [] ∧ halted.halted = true := by decide

/-- Ready, halted and in the middle of an operation; both ends of the index range. -/
theorem witness_HostArgumentWritesStore :
    State.inputs { ready [] with inputs := [.writeArgVal 0xFFFFFFFF] } = .writeArgVal 0xFFFFFFFF :: [] ∧
    State.inputs { pollEnd with inputs := [.writeArgMac 0 0x02, .tick] } = .writeArgMac 0 0x02 :: [.tick] ∧
    State.inputs { halted with inputs := [.writeArgMac 5 0x01] } = .writeArgMac 5 0x01 :: [] ∧
    (5 : Fin 6) ≠ 0 := ⟨rfl, rfl, rfl, by decide⟩

theorem witness_TransactionStepFrame :
    (pollEnd.running .waitIdle ∧ ∃ t, exec .waitIdle pollEnd = .next t) ∧
    (State.running (.submit .ewen 0) (mid (.submit .ewen 0) .single .issue2 true) ∧
      ∃ t, exec (.submit .ewen 0) (mid (.submit .ewen 0) .single .issue2 true) = .next t) :=
  ⟨⟨⟨rfl, rfl, rfl⟩, _, rfl⟩, ⟨⟨rfl, rfl, rfl⟩, _, rfl⟩⟩

theorem witness_EveryTransactionIsAligned :
    pollEnd.Inv ∧ ∃ t, step pollEnd = .next t ∧ t.trace = [.read 0x0B6 0x0000] :=
  ⟨pollEnd_inv, _, rfl, by decide⟩

theorem witness_LastCmdHoldsCommandReads :
    (pollEnd.Inv ∧ ∃ t, step pollEnd = .next t ∧ t.lastCmd ≠ pollEnd.lastCmd) ∧
    (Instr.waitIdle.space = .request ∧ pollEnd.running .waitIdle ∧ pollEnd.half = true ∧ pollEnd.cmdst = .busy ∧
      ∃ t, exec .waitIdle pollEnd = .next t) ∧
    (checkEnd.Inv ∧ checkEnd.running .enableWrite ∧ checkEnd.half = true ∧ checkEnd.cmdst = .check ∧
      ∃ t, exec .enableWrite checkEnd = .next t) :=
  ⟨⟨pollEnd_inv, _, rfl, by decide⟩, ⟨rfl, ⟨rfl, rfl, rfl⟩, rfl, rfl, _, rfl⟩,
    ⟨checkEnd_inv, ⟨rfl, rfl, rfl⟩, rfl, rfl, _, rfl⟩⟩

theorem witness_TimeoutSeenOnlyByCheck :
    (checkEnd.Inv ∧ ∃ t, step checkEnd = .next t ∧ t.toSeen ≠ checkEnd.toSeen) ∧
    (Instr.enableWrite.space = .request ∧ checkEnd.running .enableWrite ∧ checkEnd.cmdst = .check ∧
      checkEnd.half = true ∧ ∃ t, exec .enableWrite checkEnd = .next t) :=
  ⟨⟨checkEnd_inv, _, rfl, by decide⟩, ⟨rfl, ⟨rfl, rfl, rfl⟩, rfl, rfl, _, rfl⟩⟩

theorem witness_ImagesWrittenCellByCell :
    (dumpEnd.Inv ∧ (∀ rest, dumpEnd.inputs ≠ .reset :: rest) ∧
      ∃ t, step dumpEnd = .next t ∧ t.preImg ≠ dumpEnd.preImg) ∧
    (programEnd.Inv ∧ (∀ rest, programEnd.inputs ≠ .reset :: rest) ∧
      ∃ t, step programEnd = .next t ∧ t.postImg ≠ programEnd.postImg) ∧
    (Instr.dump.space = .request ∧ dumpEnd.running .dump ∧ dumpEnd.cmdst = .read ∧ dumpEnd.half = true ∧
      dumpEnd.seqst = .dumpPre ∧ ∃ t, exec .dump dumpEnd = .next t) ∧
    (Instr.programAddress.space = .request ∧ programEnd.running .programAddress ∧ programEnd.cmdst = .read ∧
      programEnd.half = true ∧ programEnd.seqst = .dumpPost ∧ ∃ t, exec .programAddress programEnd = .next t) :=
  ⟨⟨dumpEnd_inv, fun _ h => (by cases h), _, rfl, by decide⟩,
    ⟨programEnd_inv, fun _ h => (by cases h), _, rfl, by decide⟩,
    ⟨rfl, ⟨rfl, rfl, rfl⟩, rfl, rfl, rfl, _, rfl⟩, ⟨rfl, ⟨rfl, rfl, rfl⟩, rfl, rfl, rfl, _, rfl⟩⟩

theorem witness_ResWrittenOnlyAtFinish :
    pollEnd.running .waitIdle ∧ ∃ t, exec .waitIdle pollEnd = .next t ∧ t.res ≠ pollEnd.res :=
  ⟨⟨rfl, rfl, rfl⟩, _, rfl, by decide⟩

theorem witness_ArgumentWritesDoNotReachRunningRequest :
    programEnd.running .programAddress ∧ ∃ t, exec .programAddress programEnd = .next t :=
  ⟨⟨rfl, rfl, rfl⟩, _, rfl⟩

/-- Both corners of the offset range; the same hypotheses serve ReadRegCompletes, and without the offset
ReadMacShadowCompletes and SubmitCompletes. -/
theorem witness_WriteRegCompletes :
    (ready []).ready = true ∧ (ready []).halted = false ∧ regOffsetOk 0x000 = true ∧ regOffsetOk 0xFFC = true ∧
    Memory.wf (ready []).window = true := by decide

theorem witness_ReadRegCompletes :
    (ready []).ready = true ∧ (ready []).halted = false ∧ regOffsetOk 0x000 = true ∧ regOffsetOk 0xFFC = true := by decide

/-- At plain memory of the reference device (RD11). -/
theorem witness_RegisterRoundTrip :
    (bench true).ready = true ∧ (bench true).halted = false ∧ regOffsetOk 0x100 = true ∧
    Memory.wf (bench true).window = true ∧
    ∃ s1 s2 s3 u1 u2, exec (.writeReg 0x100) (bench true) = .next s1 ∧ exec (.writeReg 0x100) s1 = .next s2 ∧
      exec (.writeReg 0x100) s2 = .next s3 ∧ s3.ready = true ∧ s3.halted = false ∧
      exec (.readReg 0x100) s3 = .next u1 ∧ u1.memoryAt 0x100 ∧
      exec (.readReg 0x100) u1 = .next u2 ∧ u2.memoryAt (0x100 + 2) :=
  ⟨rfl, rfl, rfl, rfl, _, _, _, _, _, rfl, rfl, rfl, rfl, rfl, rfl, rfl, rfl, rfl⟩

theorem witness_ReadMacShadowCompletes :
    (ready []).ready = true ∧ (ready []).halted = false ∧ Memory.wf (ready []).window = true := by decide

theorem witness_SubmitCompletes :
    (ready []).ready = true ∧ (ready []).halted = false ∧ Memory.wf (ready []).window = true := by decide

theorem witness_WaitIdleCompletes :
    ((ready []).ready = true ∧ (ready []).halted = false) ∧
    (State.running .waitIdle (mid .waitIdle .single .busy false [0]) ∧
      State.pointOf (mid .waitIdle .single .busy false [0]) .waitIdle ∧ (mid .waitIdle .single .busy false [0]).half = false) ∧
    (pollEnd.running .waitIdle ∧ pollEnd.pointOf .waitIdle ∧ pollEnd.half = true ∧ busyBit pollEnd.cmdValue = false) ∧
    busyBit (mid .waitIdle .single .busy true [0x8000]).cmdValue = true :=
  ⟨⟨rfl, rfl⟩, ⟨⟨rfl, rfl, rfl⟩, ⟨rfl, rfl, rfl, rfl⟩, rfl⟩,
    ⟨⟨rfl, rfl, rfl⟩, ⟨rfl, rfl, rfl, rfl⟩, rfl, by decide⟩, by decide⟩

/-! ### Whole operations -/

/-- A wait with one busy iteration. -/
def slow : Wait :=
  { busy := [{ lo := 0, hi := 0x8000 }], last := { lo := 0x0200, hi := 0 } }

/-- A cell operation whose two waits are slow and whose tail read is 0x000000A5. -/
def slowCell : CellRun := { pre := slow, post := slow, tail := { lo := 0x00A5, hi := 0 } }

/-- A whole PROGRAM_ADDRESS; `lo` is the low half of the unlock's check. -/
def slowProgram (lo : Half) : ProgramRun :=
  { pre := List.replicate 32 slowCell, unlock := { slowCell with tail := { lo := lo, hi := 0 } }
    writes := List.replicate 7 slowCell, lock := slowCell, post := List.replicate 32 slowCell }

theorem witness_WaitIdleRun :
    (ready (slow.answers ++ [1])).ready = true ∧ (ready (slow.answers ++ [1])).halted = false ∧
    (ready (slow.answers ++ [1])).inputs = [] ∧ slow.ok = true ∧
    (ready (slow.answers ++ [1])).device = liveDevice (slow.answers ++ [1]) 0 := ⟨rfl, rfl, rfl, rfl, rfl⟩

theorem witness_BusyDeviceHangsThePoll :
    State.running .waitIdle (mid .waitIdle .single .busy false (slow.busy.flatMap ReadPair.answers ++ [])) ∧
    State.pointOf (mid .waitIdle .single .busy false (slow.busy.flatMap ReadPair.answers ++ [])) .waitIdle ∧
    (mid .waitIdle .single .busy false (slow.busy.flatMap ReadPair.answers ++ [])).half = false ∧
    (mid .waitIdle .single .busy false (slow.busy.flatMap ReadPair.answers ++ [])).inputs = [] ∧
    slow.busy.all (fun r => r.hi.getLsbD 15) = true ∧
    (mid .waitIdle .single .busy false (slow.busy.flatMap ReadPair.answers ++ [])).device =
      liveDevice (slow.busy.flatMap ReadPair.answers ++ []) 0 :=
  ⟨⟨rfl, rfl, rfl⟩, ⟨rfl, rfl, rfl, rfl⟩, rfl, rfl, rfl, rfl⟩

theorem witness_ReadCellCompletes :
    ((ready []).ready = true ∧ (ready []).halted = false ∧ (0 : Byte).toNat ≤ 31 ∧ (31 : Byte).toNat ≤ 31) ∧
    (State.running (.readCell 0) (mid (.readCell 0) .single .read true [0]) ∧
      State.pointOf (mid (.readCell 0) .single .read true [0]) (.readCell 0) ∧
      (mid (.readCell 0) .single .read true [0]).cmdst = .read ∧ (mid (.readCell 0) .single .read true [0]).half = true) :=
  ⟨by decide, ⟨rfl, rfl, rfl⟩, ⟨rfl, rfl, rfl, rfl, rfl, rfl⟩, rfl, rfl⟩

theorem witness_EnableWriteCompletes :
    ((ready []).ready = true ∧ (ready []).halted = false) ∧
    (checkEnd.running .enableWrite ∧ checkEnd.pointOf .enableWrite ∧ checkEnd.cmdst = .check ∧ checkEnd.half = true) ∧
    timeoutBit checkEnd.cmdValue = true ∧ timeoutBit (State.cmdValue { checkEnd with latchLo := 0x0100 }) = false :=
  ⟨⟨rfl, rfl⟩, ⟨⟨rfl, rfl, rfl⟩, ⟨rfl, rfl, rfl, rfl, rfl⟩, rfl, rfl⟩, by decide, by decide⟩

/-- A WRITE_CELL of cell 6 at a program point. -/
def writing (c : CmdSt) (half : Bool) : State :=
  { mid (.writeCell 6 0x42) .single c half [0] with cell := 6, curAddr := 6, curData := 0x42, curCmd := .write }

theorem witness_WriteCellCompletes :
    ((ready []).ready = true ∧ (ready []).halted = false ∧ (0 : Byte).toNat ≤ 6 ∧ (6 : Byte).toNat ≤ 6) ∧
    ((writing .data false).running (.writeCell 6 0x42) ∧ (writing .data false).pointOf (.writeCell 6 0x42) ∧
      (writing .data false).cmdst = .data ∧ (writing .data false).half = false) ∧
    ((writing .busy true).running (.writeCell 6 0x42) ∧ (writing .busy true).pointOf (.writeCell 6 0x42) ∧
      (writing .busy true).cmdst = .busy ∧ (writing .busy true).half = true ∧
      busyBit (writing .busy true).cmdValue = false) :=
  ⟨by decide, ⟨⟨rfl, rfl, rfl⟩, ⟨rfl, rfl, rfl, rfl, rfl, rfl, rfl⟩, rfl, rfl⟩,
    ⟨⟨rfl, rfl, rfl⟩, ⟨rfl, rfl, rfl, rfl, rfl, rfl, rfl⟩, rfl, rfl, by decide⟩⟩

/-- The last poll of a DISABLE_WRITE. -/
def lockEnd : State := { mid .disableWrite .single .busy true [0x0000] with curCmd := .ewds }

theorem witness_DisableWriteCompletes :
    ((ready []).ready = true ∧ (ready []).halted = false) ∧
    (lockEnd.running .disableWrite ∧ lockEnd.pointOf .disableWrite ∧ lockEnd.cmdst = .busy ∧ lockEnd.half = true ∧
      busyBit lockEnd.cmdValue = false) :=
  ⟨⟨rfl, rfl⟩, ⟨rfl, rfl, rfl⟩, ⟨rfl, rfl, rfl, rfl, rfl⟩, rfl, rfl, by decide⟩

theorem witness_ReadCellRun :
    (ready (slowCell.answers .read ++ [1])).ready = true ∧ (ready (slowCell.answers .read ++ [1])).halted = false ∧
    (ready (slowCell.answers .read ++ [1])).inputs = [] ∧ (31 : Byte).toNat ≤ 31 ∧ slowCell.ok = true ∧
    (ready (slowCell.answers .read ++ [1])).device = liveDevice (slowCell.answers .read ++ [1]) 0 :=
  ⟨rfl, rfl, rfl, by decide, rfl, rfl⟩

/-- With TIMEOUT in the check and without it. -/
theorem witness_EnableWriteRun :
    (ready ((slowProgram 0x0200).unlock.answers .unlock ++ [])).ready = true ∧
    (ready ((slowProgram 0x0200).unlock.answers .unlock ++ [])).halted = false ∧
    (ready ((slowProgram 0x0200).unlock.answers .unlock ++ [])).inputs = [] ∧
    (slowProgram 0x0200).unlock.ok = true ∧ (slowProgram 0x0200).unlock.tail.lo.getLsbD 9 = true ∧
    slowCell.ok = true ∧ slowCell.tail.lo.getLsbD 9 = false ∧
    (ready ((slowProgram 0x0200).unlock.answers .unlock ++ [])).device =
      liveDevice ((slowProgram 0x0200).unlock.answers .unlock ++ []) 0 :=
  ⟨rfl, rfl, rfl, rfl, rfl, rfl, rfl, rfl⟩

theorem witness_WriteCellRun :
    (ready (slowCell.answers .write ++ [])).ready = true ∧ (ready (slowCell.answers .write ++ [])).halted = false ∧
    (ready (slowCell.answers .write ++ [])).inputs = [] ∧ (6 : Byte).toNat ≤ 6 ∧ slowCell.ok = true ∧
    (ready (slowCell.answers .write ++ [])).device = liveDevice (slowCell.answers .write ++ []) 0 :=
  ⟨rfl, rfl, rfl, by decide, rfl, rfl⟩

theorem witness_DisableWriteRun :
    (ready (slowCell.answers .lock ++ [])).ready = true ∧ (ready (slowCell.answers .lock ++ [])).halted = false ∧
    (ready (slowCell.answers .lock ++ [])).inputs = [] ∧ slowCell.ok = true ∧
    (ready (slowCell.answers .lock ++ [])).device = liveDevice (slowCell.answers .lock ++ []) 0 :=
  ⟨rfl, rfl, rfl, rfl, rfl⟩

theorem witness_DumpCompletes :
    ((ready []).ready = true ∧ (ready []).halted = false) ∧
    (dumpEnd.running .dump ∧ dumpEnd.pointOf .dump ∧ dumpEnd.cmdst = .read ∧ dumpEnd.half = true ∧ dumpEnd.cell = 31) ∧
    (State.running .dump (mid .dump .dumpPre .read true [0]) ∧ State.pointOf (mid .dump .dumpPre .read true [0]) .dump ∧
      (mid .dump .dumpPre .read true [0]).cell ≠ 31) :=
  ⟨⟨rfl, rfl⟩, ⟨⟨rfl, rfl, rfl⟩, ⟨rfl, rfl, rfl, rfl, rfl⟩, rfl, rfl, rfl⟩,
    ⟨⟨rfl, rfl, rfl⟩, ⟨rfl, rfl, rfl, rfl, rfl⟩, by decide⟩⟩

theorem witness_ProgramAddressCompletes :
    ((ready []).ready = true ∧ (ready []).halted = false) ∧
    (programEnd.running .programAddress ∧ programEnd.pointOf .programAddress ∧ programEnd.seqst = .dumpPost ∧
      programEnd.cmdst = .read ∧ programEnd.cell = 31 ∧ programEnd.half = true) :=
  ⟨⟨rfl, rfl⟩, ⟨rfl, rfl, rfl⟩, ⟨rfl, .inl ⟨.inr rfl, rfl, rfl, rfl⟩⟩, rfl, rfl, rfl, rfl⟩

/-- The point of step 2 (its check) of a PROGRAM_ADDRESS. -/
def programUnlock (lo : Half) : State :=
  { mid .programAddress .unlock .check true [0x0000] with latchLo := lo, curCmd := .ewen }

/-- The last poll of the write of cell `c` in step 3. -/
def programWrite (c : CellIx) (b : Byte) : State :=
  { mid .programAddress .write .busy true [0x0000] with cell := c, curAddr := cellAddr c, curData := b, curCmd := .write }

/-- The last poll of step 4. -/
def programLock : State := { mid .programAddress .lock .busy true [0x0000] with curCmd := .ewds }

/-- One witness for each end of a phase (R173). -/
theorem witness_ProgramPhases :
    (State.running .programAddress (mid .programAddress .dumpPre .read true [0]) ∧
      State.pointOf (mid .programAddress .dumpPre .read true [0]) .programAddress ∧
      ∃ t, exec .programAddress (mid .programAddress .dumpPre .read true [0]) = .next t) ∧
    ((programUnlock 0x0200).running .programAddress ∧ (programUnlock 0x0200).pointOf .programAddress ∧
      timeoutBit (programUnlock 0x0200).cmdValue = true ∧ ∃ t, exec .programAddress (programUnlock 0x0200) = .next t) ∧
    ((programUnlock 0).pointOf .programAddress ∧ timeoutBit (programUnlock 0).cmdValue = false) ∧
    ((programWrite 6 0).running .programAddress ∧ (programWrite 6 0).pointOf .programAddress ∧
      busyBit (programWrite 6 0).cmdValue = false ∧ ∃ t, exec .programAddress (programWrite 6 0) = .next t) ∧
    ((programWrite 0 0xA5).running .programAddress ∧ (programWrite 0 0xA5).pointOf .programAddress ∧
      busyBit (programWrite 0 0xA5).cmdValue = false ∧ (programWrite 0 0xA5).cell ≠ 6 ∧
      ∃ t, exec .programAddress (programWrite 0 0xA5) = .next t) ∧
    (mid .programAddress .dumpPre .read true [0]).cell ≠ 31 ∧
    (programLock.running .programAddress ∧ programLock.pointOf .programAddress ∧
      busyBit programLock.cmdValue = false ∧ ∃ t, exec .programAddress programLock = .next t) ∧
    (programEnd.running .programAddress ∧ programEnd.pointOf .programAddress ∧
      ∃ t, exec .programAddress programEnd = .next t) :=
  ⟨⟨⟨rfl, rfl, rfl⟩, ⟨rfl, .inl ⟨.inl rfl, rfl, rfl, rfl⟩⟩, _, rfl⟩,
    ⟨⟨rfl, rfl, rfl⟩, ⟨rfl, .inr (.inl ⟨rfl, rfl, rfl, rfl⟩)⟩, by decide, _, rfl⟩,
    ⟨⟨rfl, .inr (.inl ⟨rfl, rfl, rfl, rfl⟩)⟩, by decide⟩,
    ⟨⟨rfl, rfl, rfl⟩, ⟨rfl, .inr (.inr (.inl ⟨rfl, rfl, by decide, rfl, rfl, rfl⟩))⟩, by decide, _, rfl⟩,
    ⟨⟨rfl, rfl, rfl⟩, ⟨rfl, .inr (.inr (.inl ⟨rfl, rfl, by decide, rfl, rfl, rfl⟩))⟩, by decide, by decide, _, rfl⟩,
    by decide,
    ⟨⟨rfl, rfl, rfl⟩, ⟨rfl, .inr (.inr (.inr ⟨rfl, rfl, rfl, rfl⟩))⟩, by decide, _, rfl⟩,
    ⟨⟨rfl, rfl, rfl⟩, ⟨rfl, .inl ⟨.inr rfl, rfl, rfl, rfl⟩⟩, _, rfl⟩⟩

/-- One witness for each of the four cell operations, alone and inside a sequence. -/
theorem witness_CommandFsmTransitions :
    (State.running (.readCell 0) (mid (.readCell 0) .single .read true [0]) ∧
      State.pointOf (mid (.readCell 0) .single .read true [0]) (.readCell 0) ∧
      ∃ t, exec (.readCell 0) (mid (.readCell 0) .single .read true [0]) = .next t) ∧
    (checkEnd.running .enableWrite ∧ checkEnd.pointOf .enableWrite ∧ ∃ t, exec .enableWrite checkEnd = .next t) ∧
    ((writing .data false).running (.writeCell 6 0x42) ∧ (writing .data false).pointOf (.writeCell 6 0x42) ∧
      ∃ t, exec (.writeCell 6 0x42) (writing .data false) = .next t) ∧
    (lockEnd.running .disableWrite ∧ lockEnd.pointOf .disableWrite ∧ ∃ t, exec .disableWrite lockEnd = .next t) ∧
    (dumpEnd.running .dump ∧ dumpEnd.pointOf .dump ∧ decide (dumpEnd.cell = 31) = true ∧
      ∃ t, exec .dump dumpEnd = .next t) ∧
    (programLock.running .programAddress ∧ programLock.pointOf .programAddress ∧ programLock.seqst = .lock ∧
      ∃ t, exec .programAddress programLock = .next t) ∧
    (programEnd.running .programAddress ∧ programEnd.pointOf .programAddress ∧ decide (programEnd.cell = 31) = true ∧
      ∃ t, exec .programAddress programEnd = .next t) :=
  ⟨⟨⟨rfl, rfl, rfl⟩, ⟨rfl, rfl, rfl, rfl, rfl, rfl⟩, _, rfl⟩,
    ⟨⟨rfl, rfl, rfl⟩, ⟨rfl, rfl, rfl, rfl, rfl⟩, _, rfl⟩,
    ⟨⟨rfl, rfl, rfl⟩, ⟨rfl, rfl, rfl, rfl, rfl, rfl, rfl⟩, _, rfl⟩,
    ⟨⟨rfl, rfl, rfl⟩, ⟨rfl, rfl, rfl, rfl, rfl⟩, _, rfl⟩,
    ⟨⟨rfl, rfl, rfl⟩, ⟨rfl, rfl, rfl, rfl, rfl⟩, by decide, _, rfl⟩,
    ⟨⟨rfl, rfl, rfl⟩, ⟨rfl, .inr (.inr (.inr ⟨rfl, rfl, rfl, rfl⟩))⟩, rfl, _, rfl⟩,
    ⟨⟨rfl, rfl, rfl⟩, ⟨rfl, .inl ⟨.inr rfl, rfl, rfl, rfl⟩⟩, by decide, _, rfl⟩⟩

theorem witness_DumpRun :
    let rs := List.replicate 32 slowCell
    (ready (dumpAnswers rs ++ [])).ready = true ∧ (ready (dumpAnswers rs ++ [])).halted = false ∧
    (ready (dumpAnswers rs ++ [])).inputs = [] ∧ rs.length = 32 ∧ rs.all CellRun.ok = true ∧
    (ready (dumpAnswers rs ++ [])).device = liveDevice (dumpAnswers rs ++ []) 0 :=
  ⟨rfl, rfl, rfl, rfl, rfl, rfl⟩

theorem witness_ProgramAddressRun :
    let r := slowProgram 0x0100
    (ready (r.answers ++ [])).ready = true ∧ (ready (r.answers ++ [])).halted = false ∧
    (ready (r.answers ++ [])).inputs = [] ∧ r.ok = true ∧ r.timedOut = false ∧
    (ready (r.answers ++ [])).device = liveDevice (r.answers ++ []) 0 :=
  ⟨rfl, rfl, rfl, rfl, rfl, rfl⟩

theorem witness_ProgramAddressFatalRun :
    let r := slowProgram 0x0200
    (ready (r.answersToUnlock ++ [])).ready = true ∧ (ready (r.answersToUnlock ++ [])).halted = false ∧
    (ready (r.answersToUnlock ++ [])).inputs = [] ∧ r.ok = true ∧ r.timedOut = true ∧
    (ready (r.answersToUnlock ++ [])).device = liveDevice (r.answersToUnlock ++ []) 0 :=
  ⟨rfl, rfl, rfl, rfl, rfl, rfl⟩

/-- What the host may do in the course of an operation (V-S7, V-S8). -/
def busyHost : List Input :=
  [.tick, .writeReq 0x40000000, .poll, .writeArgVal 0x12345678, .writeArgMac 0 0x00]

theorem witness_ProgramTraceSubmissions :
    let r := slowProgram 0x0100
    let s := { ready (r.answers ++ []) with inputs := busyHost }
    s.ready = true ∧ s.halted = false ∧ s.inputs.all Input.leavesOperation = true ∧ s.params.valid = true ∧
    r.ok = true ∧ r.timedOut = false ∧ s.device = liveDevice (r.answers ++ []) 0 :=
  ⟨rfl, rfl, rfl, rfl, rfl, rfl, rfl⟩

theorem witness_FatalTraceSubmissions :
    let r := slowProgram 0x0200
    let s := { ready (r.answersToUnlock ++ []) with inputs := busyHost }
    s.ready = true ∧ s.halted = false ∧ s.inputs.all Input.leavesOperation = true ∧ s.params.valid = true ∧
    r.ok = true ∧ r.timedOut = true ∧ s.device = liveDevice (r.answersToUnlock ++ []) 0 :=
  ⟨rfl, rfl, rfl, rfl, rfl, rfl, rfl⟩

/-- The machine side of the host: an opcode-table word is the first thing that runs after reset. -/
theorem test_fetchWord_request : peek (step (State.reset.withFetchWord 32 0x60000500)) State.status =
    some 0x00511600 := by decide -- V-C1

theorem witness_HaltedUntilReset :
    State.Inv { halted with inputs := [.writeReq 0x90000000] } ∧
    State.halted { halted with inputs := [.writeReq 0x90000000] } = true ∧
    ∃ t, step { halted with inputs := [.writeReq 0x90000000] } = .next t := ⟨halted_inv _, rfl, _, rfl⟩

theorem witness_CommandWordsGoOut : Memory.wf (ready []).window = true ∧ Memory.wf [(5, (1 : Byte))] = true := by decide

theorem witness_IndirectWordGoesOut : Memory.wf (ready []).window = true := by decide

theorem witness_SubmitIsTwoCommandWords :
    (bench true).ready = true ∧ (bench true).halted = false ∧
    ∃ s1 s2 s3 s4 s5 w1 w2, exec (.submit .read 5) (bench true) = .next s1 ∧ exec (.submit .read 5) s1 = .next s2 ∧
      exec (.submit .read 5) s2 = .next s3 ∧ exec (.submit .read 5) s3 = .next s4 ∧
      exec (.submit .read 5) s4 = .next s5 ∧ exec (Instr.ofCmd .read (fields 0 5)) (bench true) = .next w1 ∧
      exec (Instr.ofCmd .read (fields 1 5)) w1 = .next w2 :=
  ⟨rfl, rfl, _, _, _, _, _, _, _, rfl, rfl, rfl, rfl, rfl, rfl, rfl⟩

/-- The reference device of `bench`, and one that is write-enabled. -/
theorem witness_ReferenceCommandEffects :
    (bench true).params.valid = true ∧ (bench true).device.ref = some (RefDevice.initial 1 true 0x00000002 0x00003412) ∧
    (RefDevice.initial 1 true 0x00000002 0x00003412).present = true ∧
    (RefDevice.initial 1 true 0x00000002 0x00003412).we = false ∧
    RefDevice.we { RefDevice.initial 1 true 0 0 with we := true } = true ∧
    (31 : Byte).toNat < 32 ∧ 32 ≤ (32 : Byte).toNat := ⟨rfl, rfl, rfl, rfl, rfl, by decide, by decide⟩

theorem witness_ReferenceDeviceIsProgrammed :
    (bench true).ready = true ∧ (bench true).halted = false ∧ (bench true).inputs = [] ∧
    (bench true).params.valid = true ∧ ∃ r, (bench true).device.ref = some r ∧ r.present = true :=
  ⟨rfl, rfl, rfl, rfl, _, rfl, rfl⟩

theorem witness_ReferenceDeviceWithoutEepromHalts :
    (bench false).ready = true ∧ (bench false).halted = false ∧ (bench false).inputs = [] ∧
    (bench false).params.valid = true ∧ ∃ r, (bench false).device.ref = some r ∧ r.present = false :=
  ⟨rfl, rfl, rfl, rfl, _, rfl, rfl⟩

end Sys2Proof.Tests
end

/-! PROOFS. The records beside RES (10_state.md R26, R27): which steps write LAST_CMD and the images. One relation,
`RecordStep`, says what a transaction step of any request does to them; `step_records` carries it to every step. -/

namespace Sys2Proof.Machine

/-! ## What holds of a step's next state -/

/-- Where the result is a next state, it has `R`. -/
def Ensures (R : State → Prop) (r : Result) : Prop := ∀ t, r = .next t → R t

theorem Ensures.next {R : State → Prop} {t : State} (h : R t) : Ensures R (.next t) := by
  intro u hu
  cases hu
  exact h

theorem Ensures.fault (R : State → Prop) (f : Fault) : Ensures R (.fault f) := fun _ h => nomatch h

/-- A transaction that faults away from its program point. -/
theorem Ensures.guarded {R : State → Prop} {c : Prop} [Decidable c] {r : Result} {f : Fault}
    (h : c → Ensures R r) : Ensures R (if c then r else .fault f) := by
  split
  · exact h ‹c›
  · exact Ensures.fault R f

/-! ## Keeping the records -/

theorem State.sameRecords.refl (s : State) : s.sameRecords s := ⟨rfl, rfl, rfl, rfl⟩

theorem State.sameRecords.trans {s t u : State} (h : s.sameRecords t) (h' : t.sameRecords u) :
    s.sameRecords u := by
  obtain ⟨hcmd, hpre, hpost, hto⟩ := h
  obtain ⟨hcmd', hpre', hpost', hto'⟩ := h'
  exact ⟨hcmd'.trans hcmd, hpre'.trans hpre, hpost'.trans hpost, hto'.trans hto⟩

/-- The rest of a step, after its transaction, that writes no record and issues no transaction. -/
def Quiet (k : State → State) : Prop := ∀ u, u.sameRecords (k u) ∧ (k u).trace = u.trace

theorem quiet_setCmdst (c : CmdSt) : Quiet (State.setCmdst c) :=
  fun _ => ⟨⟨rfl, rfl, rfl, rfl⟩, rfl⟩

theorem quiet_setMacReading (b : Bool) : Quiet (State.setMacReading b) :=
  fun _ => ⟨⟨rfl, rfl, rfl, rfl⟩, rfl⟩

theorem quiet_finishOk (v : Word) : Quiet (State.finishOk v) :=
  fun _ => by simp [State.sameRecords]

/-- The start of a sequencer phase on a cell operation. -/
theorem quiet_startPhase (q : SeqSt) (op : CellOp) (c : CellIx) :
    Quiet (fun u => (u.setSeqst q).startCell op c) :=
  fun _ => by simp [State.sameRecords]

theorem quiet_startSeqCell (op : CellOp) (c : CellIx) : Quiet (State.startSeqCell op c) :=
  fun _ => by simp [State.sameRecords]

theorem quiet_writeNext : Quiet writeNext := by
  intro u
  unfold writeNext
  split
  · simp [State.sameRecords]
  · simp [State.sameRecords]

theorem CellOp.quiet_afterBusy (op : CellOp) (k : Word → State → State) (v : Word)
    (hk : op ≠ .read → ∀ v, Quiet (k v)) : Quiet (op.afterBusy k v) := by
  cases op with
  | read => exact quiet_setCmdst .read
  | unlock => exact quiet_setCmdst .check
  | write => exact hk (by decide) v
  | lock => exact hk (by decide) v

/-! ## What a transaction step does to the records -/

/-- The state stands before the high half of a poll's or the check's command-register read (R26). -/
def State.endsCommandRead (s : State) : Prop :=
  s.half = true ∧ (s.cmdst = .prewait ∨ s.cmdst = .busy ∨ s.cmdst = .check)

/-- The state stands where `readCell` of a dump in phase `q` returns (R27, R160). -/
def State.endsCellRead (q : SeqSt) (s : State) : Prop :=
  s.seqst = q ∧ s.cmdst = .read ∧ s.half = true

/-- The state stands at a transaction that writes LAST_CMD or an image. -/
def State.recordsNext (s : State) : Prop :=
  s.endsCommandRead ∨ s.endsCellRead .dumpPre ∨ s.endsCellRead .dumpPost

/-- The image after the cell at CELL takes the byte the data register returned (R27). -/
def State.imageWritten (s : State) (img : Vector Byte 32) : Vector Byte 32 :=
  img.set s.cell.toNat (dataByte s.dataValue) s.cell.isLt

/-- What a transaction step from `s` to `t` does to LAST_CMD and the images (R26, R27). -/
inductive RecordStep (s t : State) : Prop where
  | quiet (point : ¬ s.recordsNext) (records : s.sameRecords t)
  | command (point : s.endsCommandRead) (lastCmd : t.lastCmd = s.cmdValue)
      (preImg : t.preImg = s.preImg) (postImg : t.postImg = s.postImg)
      (trace : t.trace =
        s.trace ++ [.read (s.params.e2pCmd + 2) (s.readValue (s.params.e2pCmd + 2))])
  | pre (point : s.endsCellRead .dumpPre) (lastCmd : t.lastCmd = s.lastCmd)
      (preImg : t.preImg = s.imageWritten s.preImg) (postImg : t.postImg = s.postImg)
  | post (point : s.endsCellRead .dumpPost) (lastCmd : t.lastCmd = s.lastCmd)
      (preImg : t.preImg = s.preImg) (postImg : t.postImg = s.imageWritten s.postImg)

section Transactions

variable {s : State}

theorem State.not_recordsNext_of_low (h : s.half = false) : ¬ s.recordsNext := by
  simp [State.recordsNext, State.endsCommandRead, State.endsCellRead, h]

/-- Only polls, the check and the cell read lead to a record. -/
theorem State.not_recordsNext_of_cmdst
    (h : s.cmdst = .data ∨ s.cmdst = .issue1 ∨ s.cmdst = .issue2 ∨ s.cmdst = .xfer) :
    ¬ s.recordsNext := by
  rcases h with h | h | h | h <;>
    simp [State.recordsNext, State.endsCommandRead, State.endsCellRead, h]

/-- A single cell request's read goes to RES, not to an image (R141). -/
theorem State.not_recordsNext_of_singleRead (hq : s.seqst = .single) (h : s.cmdst = .read) :
    ¬ s.recordsNext := by
  simp [State.recordsNext, State.endsCommandRead, State.endsCellRead, hq, h]

/-- A quiet continuation after a transaction that wrote no record. -/
theorem RecordStep.quietly {k : State → State} (hk : Quiet k) {u : State}
    (hn : ¬ s.recordsNext) (hu : s.sameRecords u) : RecordStep s (k u) :=
  .quiet hn (hu.trans (hk u).1)

theorem writeRegister_records (o : Offset) (v : Word) {k : State → State} (hk : Quiet k)
    (hn : ¬ s.recordsNext) : RecordStep s (s.writeRegister o v k) :=
  State.writeRegister_cases (RecordStep s) o v k
    (fun _ => .quiet hn ⟨rfl, rfl, rfl, rfl⟩)
    (fun _ => .quietly hk hn ⟨rfl, rfl, rfl, rfl⟩)

/-- A register read, given what its high half does. -/
theorem readRegister_records (o : Offset) (k : Word → State → State)
    (high : s.half = true → RecordStep s (k (joinHalves (s.readValue (o + 2)) s.latchLo)
      ((s.portRead (o + 2)).setHalf false))) : RecordStep s (s.readRegister o k) :=
  State.readRegister_cases (RecordStep s) o k
    (fun hl => .quiet (State.not_recordsNext_of_low hl) ⟨rfl, rfl, rfl, rfl⟩) high

/-- After the high half of a command-register read, LAST_CMD set, the rest of the step being quiet. -/
theorem RecordStep.commandQuietly {k : State → State} (hk : Quiet k) {u : State}
    (hp : s.endsCommandRead) (hcmd : u.lastCmd = s.cmdValue) (hpre : u.preImg = s.preImg)
    (hpost : u.postImg = s.postImg)
    (htrace : u.trace =
      s.trace ++ [.read (s.params.e2pCmd + 2) (s.readValue (s.params.e2pCmd + 2))]) :
    RecordStep s (k u) := by
  obtain ⟨⟨kcmd, kpre, kpost, -⟩, ktrace⟩ := hk u
  exact .command hp (kcmd.trans hcmd) (kpre.trans hpre) (kpost.trans hpost) (ktrace.trans htrace)

/-- R120: every iteration of a poll ends in LAST_CMD, BUSY or not. -/
theorem poll_records {k : Word → State → State} (hk : ∀ v, Quiet (k v))
    (hp : s.cmdst = .prewait ∨ s.cmdst = .busy) : RecordStep s (s.poll k) := by
  have point (hh : s.half = true) : s.endsCommandRead :=
    ⟨hh, hp.elim .inl fun hb => .inr (.inl hb)⟩
  refine State.poll_cases (RecordStep s) k ?low ?busy ?done
  case low =>
    exact fun hl => .quiet (State.not_recordsNext_of_low hl) ⟨rfl, rfl, rfl, rfl⟩
  case busy => exact fun hh _ => .command (point hh) rfl rfl rfl rfl
  case done => exact fun hh _ => .commandQuietly (hk _) (point hh) rfl rfl rfl rfl

/-- R124: the check ends in LAST_CMD, fatal or not. -/
theorem checkTimeout_records {k : Word → State → State} (hk : ∀ v, Quiet (k v))
    (hp : s.cmdst = .check) : RecordStep s (s.checkTimeout k) := by
  have point (hh : s.half = true) : s.endsCommandRead := ⟨hh, .inr (.inr hp)⟩
  refine State.checkTimeout_cases (RecordStep s) k ?low ?fatal ?ok
  case low =>
    exact fun hl => .quiet (State.not_recordsNext_of_low hl) ⟨rfl, rfl, rfl, rfl⟩
  case fatal => exact fun hh _ => .command (point hh) (by simp) (by simp) (by simp) (by simp)
  case ok =>
    exact fun hh _ =>
      .commandQuietly (hk _) (point hh) (by simp) (by simp) (by simp) (by simp)

/-! ## Cell operations -/

/-- A cell operation writes LAST_CMD at its polls and its check; only what follows the cell read, `read`, is the
caller's. -/
theorem cellStep_records (op : CellOp) {k : Word → State → State}
    (hk : op ≠ .read → ∀ v, Quiet (k v))
    (read : op = .read → s.cmdst = .read → s.half = true →
      RecordStep s (k s.dataValue ((s.portRead (s.params.e2pData + 2)).setHalf false))) :
    Ensures (RecordStep s) (s.cellStep op k) := by
  refine State.cellStep_cases _ op k ?prewait ?data ?issue1 ?issue2 ?busy ?check ?read ?stop
  case prewait => exact fun h => .next (poll_records (fun _ => quiet_setCmdst _) (.inl h))
  case data =>
    exact fun h _ => .next (writeRegister_records _ _ (quiet_setCmdst _)
      (State.not_recordsNext_of_cmdst (by simp [h])))
  case issue1 =>
    exact fun h => .next (writeRegister_records _ _ (quiet_setCmdst _)
      (State.not_recordsNext_of_cmdst (by simp [h])))
  case issue2 =>
    exact fun h => .next (writeRegister_records _ _ (quiet_setCmdst _)
      (State.not_recordsNext_of_cmdst (by simp [h])))
  case busy =>
    exact fun h => .next (poll_records (fun v => op.quiet_afterBusy k v hk) (.inr h))
  case check =>
    intro h hop
    exact .next (checkTimeout_records (hk (by simp [hop])) h)
  case read => exact fun h hop => .next (readRegister_records _ k (read hop h))
  case stop => exact .fault _ _

/-- The cell operation of a single request. -/
theorem singleCellStep_records (op : CellOp) {k : Word → State → State} (hk : ∀ v, Quiet (k v)) :
    Ensures (RecordStep s) (singleCellStep op k s) :=
  .guarded fun hq => cellStep_records op (fun _ => hk) fun _ h _ =>
    .quietly (hk _) (State.not_recordsNext_of_singleRead hq h) ⟨rfl, rfl, rfl, rfl⟩

/-- A cell operation of steps 2 to 4 of PROGRAM_ADDRESS, none of which reads a cell. -/
theorem phaseStep_records {op : CellOp} (hop : op ≠ .read) {k : Word → State → State}
    (hk : ∀ v, Quiet (k v)) : Ensures (RecordStep s) (s.cellStep op k) :=
  cellStep_records op (fun _ => hk) fun h => absurd h hop

/-- `dump(IMG)` after a cell read: the image's cell, then a quiet rest (R160). -/
theorem dumpNext_sameRecords (setImg : CellIx → Byte → State → State) {k : State → State}
    (hk : Quiet k) (d : Word) (u : State) :
    (setImg u.cell (dataByte d) u).sameRecords (dumpNext setImg k d u) := by
  unfold dumpNext
  split
  · exact (hk _).1
  · exact (quiet_startSeqCell _ _ _).1

theorem dumpPre_records (hq : s.seqst = .dumpPre) {k : State → State} (hk : Quiet k) :
    Ensures (RecordStep s) (s.cellStep .read (dumpNext State.setPre k)) := by
  refine cellStep_records .read (fun h => absurd rfl h) fun _ hc hh => ?_
  obtain ⟨hcmd, hpre, hpost, -⟩ := dumpNext_sameRecords State.setPre hk s.dataValue
    ((s.portRead (s.params.e2pData + 2)).setHalf false)
  exact .pre ⟨hq, hc, hh⟩ hcmd hpre hpost

theorem dumpPost_records (hq : s.seqst = .dumpPost) {k : State → State} (hk : Quiet k) :
    Ensures (RecordStep s) (s.cellStep .read (dumpNext State.setPost k)) := by
  refine cellStep_records .read (fun h => absurd rfl h) fun _ hc hh => ?_
  obtain ⟨hcmd, hpre, hpost, -⟩ := dumpNext_sameRecords State.setPost hk s.dataValue
    ((s.portRead (s.params.e2pData + 2)).setHalf false)
  exact .post ⟨hq, hc, hh⟩ hcmd hpre hpost

/-! ## Requests -/

/-- A register transfer reads or writes no record of its own: RES takes a read's value (R104, R105, R106). -/
theorem readToRes_records (o : Offset) (hn : ¬ s.recordsNext) :
    RecordStep s (s.readRegister o (fun v u => u.finishOk v)) :=
  readRegister_records o _ fun _ => .quietly (quiet_finishOk _) hn ⟨rfl, rfl, rfl, rfl⟩

theorem atOffset_ensures {R : State → Prop} {t : State} (h : s.cmdst = .xfer → R t) :
    Ensures R (atOffset s t) := by
  unfold atOffset
  split
  · exact .fault _ _
  · exact .guarded fun hp => .next (h hp.2)

theorem macShadowStep_records (hn : ¬ s.recordsNext) : RecordStep s s.macShadowStep := by
  unfold State.macShadowStep
  split
  · exact readToRes_records _ hn
  · exact writeRegister_records _ _ (quiet_setMacReading _) hn

theorem programStep_records : Ensures (RecordStep s) (programStep s) := by
  unfold programStep
  split
  · exact dumpPre_records ‹_› (quiet_startPhase _ _ _)
  · exact phaseStep_records (by decide) fun _ _ => by simp [State.sameRecords]
  · exact phaseStep_records (by decide) fun _ => quiet_writeNext
  · exact phaseStep_records (by decide) fun _ _ => by simp [State.sameRecords]
  · exact dumpPost_records ‹_› (quiet_finishOk _)
  all_goals exact .fault _ _

/-- The request in progress takes its transaction step. -/
theorem runRequest_running_ensures {R : State → Prop} {i : Instr} (hr : s.running i) (f : Format)
    (start : State → State) {go : State → Result} (h : Ensures R (go s)) :
    Ensures R (s.runRequest i f start go) := by
  obtain ⟨hready, hhalted, hreq⟩ := hr
  rwa [State.runRequest_running i f start go hready hhalted hreq]

/-- What every transaction step of every request does to the records. -/
theorem exec_running_records {i : Instr} (hi : i.space = .request) (hr : s.running i) :
    Ensures (RecordStep s) (exec i s) := by
  have xfer (h : s.cmdst = .xfer) : ¬ s.recordsNext :=
    State.not_recordsNext_of_cmdst (.inr (.inr (.inr h)))
  cases i with
  | writeReg off =>
    simp only [exec, execWriteReg]
    exact runRequest_running_ensures hr _ _ (atOffset_ensures fun h =>
      writeRegister_records _ _ (quiet_finishOk 0) (xfer h))
  | readReg off =>
    simp only [exec, execReadReg]
    exact runRequest_running_ensures hr _ _ (atOffset_ensures fun h =>
      readToRes_records _ (xfer h))
  | readMacShadow idx =>
    simp only [exec, execReadMacShadow]
    exact runRequest_running_ensures hr _ _ (.guarded fun h =>
      .next (macShadowStep_records (xfer h.2)))
  | waitIdle =>
    simp only [exec, execWaitIdle]
    exact runRequest_running_ensures hr _ _ (.guarded fun h =>
      .next (poll_records quiet_finishOk (.inr h.2)))
  | submit cmd addr =>
    simp only [exec, execSubmit]
    refine runRequest_running_ensures hr _ _ ?_
    split
    · next h =>
      exact .next (writeRegister_records _ _ (quiet_setCmdst _)
        (State.not_recordsNext_of_cmdst (by simp [h])))
    · exact .guarded fun h => .next (writeRegister_records _ _ (quiet_finishOk 0)
        (State.not_recordsNext_of_cmdst (by simp [h])))
  | readCell addr =>
    simp only [exec, execReadCell]
    exact runRequest_running_ensures hr _ _ (singleCellStep_records _ fun _ => quiet_finishOk _)
  | enableWrite =>
    simp only [exec, execEnableWrite]
    exact runRequest_running_ensures hr _ _ (singleCellStep_records _ quiet_finishOk)
  | writeCell addr data =>
    simp only [exec, execWriteCell]
    exact runRequest_running_ensures hr _ _ (singleCellStep_records _ fun _ => quiet_finishOk 0)
  | disableWrite =>
    simp only [exec, execDisableWrite]
    exact runRequest_running_ensures hr _ _ (singleCellStep_records _ fun _ => quiet_finishOk 0)
  | dump =>
    simp only [exec, execDump]
    exact runRequest_running_ensures hr _ _ (.guarded fun h =>
      dumpPre_records h (quiet_finishOk 0))
  | programAddress =>
    simp only [exec, execProgramAddress]
    exact runRequest_running_ensures hr _ _ programStep_records
  | _ => cases hi

end Transactions

/-! ## Every other step keeps the records -/

section Steps

variable {s t : State}

theorem startTransfer_sameRecords (rejected : Bool) (u : State) :
    u.sameRecords (startTransfer rejected u) := by
  cases rejected <;> exact ⟨rfl, rfl, rfl, rfl⟩

theorem startSingleCell_sameRecords (op : CellOp) (rejected : Bool) (c : CellIx) (u : State) :
    u.sameRecords (startSingleCell op rejected c u) := by
  cases rejected <;> exact ⟨rfl, rfl, rfl, rfl⟩

/-- A request that is accepted or discarded. -/
theorem runRequest_sameRecords_of_not_running {i : Instr} (hn : ¬ s.running i) (f : Format)
    {start : State → State} (hstart : ∀ u : State, u.sameRecords (start u)) (go : State → Result) :
    Ensures s.sameRecords (s.runRequest i f start go) := by
  refine State.runRequest_cases (Ensures s.sameRecords) i f start go ?accepted ?running ?discarded
  case accepted =>
    have haccept : s.sameRecords (s.accept f (encode i)) := by simp [State.sameRecords]
    exact fun _ => .next (haccept.trans (hstart _))
  case running => exact fun hready hhalted hreq => absurd ⟨hready, hhalted, hreq⟩ hn
  case discarded => exact fun _ _ => .next (.refl s)

/-- A word of the device port outside any request (log entry 8). -/
theorem writeWord_sameRecords (o : Offset) (v : Word) :
    Ensures s.sameRecords (.next (s.writeWord o v)) := .next ⟨rfl, rfl, rfl, rfl⟩

theorem exec_sameRecords_of_not_running {i : Instr} (hn : ¬ (i.space = .request ∧ s.running i)) :
    Ensures s.sameRecords (exec i s) := by
  have idle (h : i.space = .request) : ¬ s.running i := fun hr => hn ⟨h, hr⟩
  cases i with
  | writeReg off | readReg off =>
    simp only [exec, execWriteReg, execReadReg]
    exact runRequest_sameRecords_of_not_running (idle rfl) _
      (fun _ => startTransfer_sameRecords _ _) _
  | readMacShadow idx =>
    simp only [exec, execReadMacShadow]
    exact runRequest_sameRecords_of_not_running (idle rfl) _ (startTransfer_sameRecords _) _
  | readCell addr | writeCell addr data =>
    simp only [exec, execReadCell, execWriteCell]
    exact runRequest_sameRecords_of_not_running (idle rfl) _
      (fun _ => startSingleCell_sameRecords _ _ _ _) _
  | enableWrite | disableWrite =>
    simp only [exec, execEnableWrite, execDisableWrite]
    exact runRequest_sameRecords_of_not_running (idle rfl) _
      (startSingleCell_sameRecords _ _ _) _
  | waitIdle | submit cmd addr | dump | programAddress =>
    simp only [exec, execWaitIdle, execSubmit, execDump, execProgramAddress]
    exact runRequest_sameRecords_of_not_running (idle rfl) _
      (fun _ => by simp [State.sameRecords]) _
  | e2pRead f | e2pEwds f | e2pEwen f | e2pWrite f | e2pWral f | e2pErase f | e2pEral f
  | e2pReload f | macCsrReadShadow index => exact writeWord_sameRecords _ _

/-- What `s` may fetch: an instruction at a state that differs in the pending inputs alone, a settled state with the
same records (or the reset event's), or a stop. -/
def Fetched.keepsRecords (s : State) : Fetched → Prop
  | .instr _ u => ∃ ins, u = { s with inputs := ins }
  | .settled u => (∃ rest, s.inputs = .reset :: rest) ∨ s.sameRecords u
  | .stopped _ => True

theorem State.fetchRunning_keepsRecords (s : State) (ins : List Input) :
    Fetched.keepsRecords s (State.fetchRunning { s with inputs := ins }) := by
  unfold State.fetchRunning
  split
  · exact .inr ⟨rfl, rfl, rfl, rfl⟩
  · split
    · exact ⟨ins, rfl⟩
    · trivial

theorem State.fetchRequest_keepsRecords (s : State) (q : Word) (ins : List Input) :
    Fetched.keepsRecords s (State.fetchRequest q { s with inputs := ins }) := by
  unfold State.fetchRequest
  split
  · split
    · exact ⟨ins, rfl⟩
    · exact .inr (by simp [State.sameRecords])
    · exact .inr (by simp [State.sameRecords])
  · exact .inr ⟨rfl, rfl, rfl, rfl⟩

theorem State.fetch_keepsRecords (s : State) : Fetched.keepsRecords s s.fetch := by
  unfold State.fetch
  split
  · exact s.fetchRunning_keepsRecords s.inputs
  · exact s.fetchRunning_keepsRecords _
  · split
    · exact .inr ⟨rfl, rfl, rfl, rfl⟩
    · exact s.fetchRunning_keepsRecords s.inputs
  · exact s.fetchRequest_keepsRecords _ _
  · exact .inr ⟨rfl, rfl, rfl, rfl⟩
  · exact .inr ⟨rfl, rfl, rfl, rfl⟩
  · exact .inl ⟨_, ‹_›⟩
  · exact ⟨_, rfl⟩
  · exact ⟨_, rfl⟩

/-- The pending inputs are no part of a transaction step. -/
theorem RecordStep.of_inputs {ins : List Input} (h : RecordStep { s with inputs := ins } t) :
    RecordStep s t := by
  cases h with
  | quiet point records => exact .quiet point records
  | command point lastCmd preImg postImg trace => exact .command point lastCmd preImg postImg trace
  | pre point lastCmd preImg postImg => exact .pre point lastCmd preImg postImg
  | post point lastCmd preImg postImg => exact .post point lastCmd preImg postImg

/-- What every step does to the records: a reset, nothing, or a transaction step of the request in progress. -/
theorem step_records (h : step s = .next t) :
    (∃ rest, s.inputs = .reset :: rest) ∨ s.sameRecords t ∨ (s.ready = false ∧ RecordStep s t) := by
  have hfetch := s.fetch_keepsRecords
  unfold step at h
  cases hf : s.fetch with
  | instr i u =>
    rw [hf] at h hfetch
    obtain ⟨ins, rfl⟩ := hfetch
    by_cases hr : i.space = .request ∧ State.running i { s with inputs := ins }
    · obtain ⟨hi, hrun⟩ := hr
      exact .inr (.inr ⟨hrun.1, .of_inputs (exec_running_records hi hrun t h)⟩)
    · exact .inr (.inl (exec_sameRecords_of_not_running hr t h))
  | settled u =>
    rw [hf] at h hfetch
    cases h
    exact hfetch.imp_right .inl
  | stopped f =>
    rw [hf] at h
    cases h

end Steps

/-! ## The statements -/

/-- Settles O1: the reset state is written out, so each row is its own value. -/
theorem resetValues : Obligations.ResetValues := by
  unfold Obligations.ResetValues
  have zeros {n : Nat} (j : Fin n) : (Vector.replicate n (0 : Byte))[j] = 0 :=
    Vector.getElem_replicate _
  exact ⟨rfl, rfl, zeros, by decide, rfl, rfl, rfl, rfl, rfl, rfl, rfl, rfl, rfl, rfl, rfl,
    fun i => ⟨zeros i, zeros i⟩, rfl, rfl, rfl, rfl, rfl, rfl, rfl, zeros, rfl⟩

/-- Settles O20: by `step_records`, only the `command` case writes LAST_CMD, and it is the case of every poll's and
check's high half. -/
theorem lastCmdHoldsCommandReads : Obligations.LastCmdHoldsCommandReads := by
  unfold Obligations.LastCmdHoldsCommandReads
  refine ⟨fun s t _ h hne => ?_, fun i s t hi _ hr h hh hc => ?_⟩
  · rcases step_records h with hreset | hsame | ⟨hready, hrec⟩
    · exact .inl hreset
    · exact absurd hsame.1 hne
    · cases hrec with
      | quiet _ records => exact absurd records.1 hne
      | command point lastCmd _ _ trace => exact .inr ⟨hready, point.1, point.2, trace, lastCmd⟩
      | pre _ lastCmd _ _ => exact absurd lastCmd hne
      | post _ lastCmd _ _ => exact absurd lastCmd hne
  · have hp : s.endsCommandRead := ⟨hh, hc⟩
    cases exec_running_records hi hr t h with
    | quiet point _ => exact absurd (.inl hp) point
    | command _ lastCmd _ _ _ => exact lastCmd
    | pre point _ _ _ =>
      obtain ⟨_, hread, _⟩ := point
      simp [hread] at hc
    | post point _ _ _ =>
      obtain ⟨_, hread, _⟩ := point
      simp [hread] at hc

/-- Settles O22: by `step_records`, only the `pre` and `post` cases write an image, and they are the cases in which a
dump's `readCell` returns. -/
theorem imagesWrittenCellByCell : Obligations.ImagesWrittenCellByCell := by
  unfold Obligations.ImagesWrittenCellByCell
  refine ⟨fun s t _ h hno => ?_, fun i s t hi _ hr h hc hh => ?_⟩
  · rcases step_records h with ⟨rest, hreset⟩ | ⟨_, hpre, hpost, _⟩ | ⟨_, hrec⟩
    · exact absurd hreset (hno rest)
    · exact ⟨.inl hpre, .inl hpost⟩
    · cases hrec with
      | quiet _ records =>
        obtain ⟨_, hpre, hpost, _⟩ := records
        exact ⟨.inl hpre, .inl hpost⟩
      | command _ _ preImg postImg _ => exact ⟨.inl preImg, .inl postImg⟩
      | pre point _ preImg postImg =>
        obtain ⟨hq, hc, hh⟩ := point
        exact ⟨.inr ⟨hq, hc, hh, preImg⟩, .inl postImg⟩
      | post point _ preImg postImg =>
        obtain ⟨hq, hc, hh⟩ := point
        exact ⟨.inl preImg, .inr ⟨hq, hc, hh, postImg⟩⟩
  · cases exec_running_records hi hr t h with
    | quiet point _ =>
      exact ⟨fun hq => absurd (.inr (.inl ⟨hq, hc, hh⟩)) point,
        fun hq => absurd (.inr (.inr ⟨hq, hc, hh⟩)) point⟩
    | command point _ _ _ _ => simp [State.endsCommandRead, hc] at point
    | pre point _ preImg _ =>
      exact ⟨fun _ => preImg, fun hq => by simp [State.endsCellRead, hq] at point⟩
    | post point _ _ postImg =>
      exact ⟨fun hq => by simp [State.endsCellRead, hq] at point, fun _ => postImg⟩

end Sys2Proof.Machine

/-! PROOFS. Requests and their words (30_encoding.md R77 to R83): the decoder is R80's selection by mask and match, and
a pseudo-instruction's requests are the words of R82. -/

namespace Sys2Proof

/-! ## Selection by mask and match (R80) -/

/-- R80: every mask covers OP. -/
theorem reqOp_and_mask (q : Word) (op : Op) : reqOp (q &&& op.mask) = reqOp q := by
  have hmask : reqOp op.mask = BitVec.allOnes 4 := by cases op <;> rfl
  calc
    reqOp (q &&& op.mask) = reqOp q &&& reqOp op.mask := BitVec.extractLsb'_and
    _ = reqOp q := by rw [hmask, BitVec.and_allOnes]

theorem reqOp_matchBits (op : Op) : reqOp op.matchBits = op.code := by cases op <;> rfl

theorem reqOp_eq_code_of_selected {q : Word} {op : Op} (h : q &&& op.mask = op.matchBits) :
    reqOp q = op.code := by
  rw [← reqOp_and_mask q op, h, reqOp_matchBits]

/-- The decoder's two tests, the OP field and then the reserved bits, are R80's one test. -/
theorem decodeReq_eq_ok_iff {q : Word} {i : Instr} :
    decodeReq q = .ok i ↔ ∃ op : Op, i = op.instr q ∧ q &&& op.mask = op.matchBits := by
  constructor
  · intro h
    unfold decodeReq at h
    split at h
    · cases h
    · next op _ =>
      split at h
      · cases h
        exact ⟨op, rfl, ‹_›⟩
      · cases h
  · rintro ⟨op, rfl, hsel⟩
    simp [decodeReq, reqOp_eq_code_of_selected hsel, hsel]

theorem reqOp_encode_instr (q : Word) (op : Op) : reqOp (encode (op.instr q)) = op.code := by
  cases op <;> simp [Op.instr, Op.code]

/-- No two operations share a request: the OP field of its word names the operation (R79). -/
theorem Op.instr_injective (q : Word) : Function.Injective (Op.instr q) := by
  intro op op' h
  have hcode : op.code = op'.code := by
    rw [← reqOp_encode_instr q op, h, reqOp_encode_instr]
  simpa using congrArg Op.ofCode hcode

/-! ## Request words as shifted fields (R82) -/

/-- A field moved up by `n` bits, with `k` bits left above it. -/
theorem setWidth_shiftLeft_eq_append (k n : Nat) {m : Nat} (x : BitVec m) :
    x.setWidth (k + m + n) <<< n = 0#k ++ x ++ 0#n := by
  ext j hj
  simp only [BitVec.getElem_shiftLeft, BitVec.getElem_setWidth, BitVec.getElem_append]
  split
  next below => simp [below]
  next notBelow =>
    split
    next inside => simp [notBelow, inside, BitVec.getLsbD_eq_getElem]
    next above => simp [BitVec.getLsbD_of_ge x (j - n) (Nat.not_lt.mp above)]

theorem encode_writeReg_eq_or (off : BitVec 12) :
    encode (.writeReg off) = 0x10000000#32 ||| off.setWidth 32 <<< 16 := by
  have hoff : off.setWidth 32 <<< 16 = 0#4 ++ off ++ 0#16 := setWidth_shiftLeft_eq_append 4 16 off
  rw [hoff]
  change 0x1#4 ++ off ++ 0#16 = (0x1#4 ++ 0#12 ++ 0#16) ||| (0#4 ++ off ++ 0#16)
  simp only [BitVec.or_append]
  simp

theorem encode_submit_eq_or (c : Cmd) (a : BitVec 8) :
    encode (.submit c a) =
      0x50000000#32 ||| c.code.setWidth 32 <<< 16 ||| a.setWidth 32 <<< 8 := by
  have hcmd : c.code.setWidth 32 <<< 16 = 0#4 ++ 0#9 ++ c.code ++ 0#8 ++ 0#8 := by
    rw [BitVec.append_assoc (x₂ := 0#8) (x₃ := 0#8)]
    exact setWidth_shiftLeft_eq_append 13 16 c.code
  have haddr : a.setWidth 32 <<< 8 = 0#4 ++ 0#9 ++ 0#3 ++ a ++ 0#8 :=
    setWidth_shiftLeft_eq_append 16 8 a
  rw [hcmd, haddr]
  change 0x5#4 ++ 0#9 ++ c.code ++ a ++ 0#8 =
    (0x5#4 ++ 0#9 ++ 0#3 ++ 0#8 ++ 0#8) ||| (0#4 ++ 0#9 ++ c.code ++ 0#8 ++ 0#8) |||
      (0#4 ++ 0#9 ++ 0#3 ++ a ++ 0#8)
  simp only [BitVec.or_append]
  simp

end Sys2Proof

namespace Sys2Proof.Machine

/-! ## The host actions of a line (R82, R83) -/

theorem assemble_writeReg32 (off : BitVec 12) (v : Word) :
    assemble [.writeReg32 off v] = [.writeArgVal v, .poll, .writeReq (encode (.writeReg off))] := rfl

theorem assemble_programMac (a : Vector Byte 6) :
    assemble [.programMac a] = argMacInputs a ++ [.poll, .writeReq (encode .programAddress)] := rfl

theorem assemble_programRandom (r : Vector Byte 6) :
    assemble [.programRandom r] = assemble [.programMac (fixupAddress r)] := rfl

theorem assemble_cmd (c : Cmd) (a : Byte) :
    assemble [.cmd c a] =
      [.poll, .writeReq (encode .waitIdle), .poll, .writeReq (encode (.submit c a)),
       .poll, .writeReq (encode .waitIdle)] := rfl

/-! ## The statements -/

/-- Settles O8: `decodeReq_eq_ok_iff` gives the operation the decoder selects, and no other operation has its
request. -/
theorem requestSelectedByMaskAndMatch : Obligations.RequestSelectedByMaskAndMatch := by
  unfold Obligations.RequestSelectedByMaskAndMatch
  refine fun q op => ⟨⟨fun h => ?_, fun hsel => ?_⟩, fun i h => decodeReq_eq_ok_iff.mp h⟩
  · obtain ⟨op', hinstr, hsel⟩ := decodeReq_eq_ok_iff.mp h
    rwa [Op.instr_injective q hinstr]
  · exact decodeReq_eq_ok_iff.mpr ⟨op, rfl, hsel⟩

/-- Settles O59: each line's host actions, with the request words as R82 writes them. -/
theorem pseudoInstructionExpansions : Obligations.PseudoInstructionExpansions := by
  unfold Obligations.PseudoInstructionExpansions
  refine ⟨fun off v => ?_, assemble_programMac, assemble_programRandom, fun c a => ?_⟩
  · rw [assemble_writeReg32, encode_writeReg_eq_or]
    rfl
  · rw [assemble_cmd, encode_submit_eq_or]
    rfl

end Sys2Proof.Machine

/-! PROOFS. The Register Transport (40_transport.md): a request's acceptance, its transactions and its finish as one
equation each, and the four bytes that a register write leaves in the window. -/

namespace Sys2Proof.Machine

/-! ## Half-words of a register (R53, R55) -/

/-- R53: a word is its two halves, joined. -/
theorem joinHalves_hiHalf_loHalf (v : Word) : joinHalves (hiHalf v) (loHalf v) = v := by
  unfold joinHalves hiHalf loHalf
  exact (BitVec.extractLsb'_append_extractLsb'_eq_extractLsb' (start₁ := 0) (len₁ := 16) rfl).trans
    BitVec.extractLsb'_eq_self

/-- The high half-word's bytes are none of the low half-word's. -/
theorem Memory.readHalf_writeHalf_high (m : Memory) (o : Offset) (v : Half) :
    Memory.readHalf (Memory.writeHalf m (o + 2) v) o = Memory.readHalf m o := by
  unfold Memory.readHalf
  rw [Memory.read_writeHalf_other m (o + 2) v o.toNat (by bv_omega) (by bv_omega),
    Memory.read_writeHalf_other m (o + 2) v (o + 1).toNat (by bv_omega) (by bv_omega)]

/-- R100, R55: the low half-word after both writes of a register. -/
theorem Memory.readHalf_register_low {m : Memory} (hwf : Memory.wf m = true) (o : Offset) (lo hi : Half) :
    Memory.readHalf (Memory.writeHalf (Memory.writeHalf m o lo) (o + 2) hi) o = lo := by
  rw [Memory.readHalf_writeHalf_high, Memory.readHalf_writeHalf_same _ _ _ hwf]

/-- R100, R55: the high half-word after both writes of a register. -/
theorem Memory.readHalf_register_high {m : Memory} (hwf : Memory.wf m = true) (o : Offset) (lo hi : Half) :
    Memory.readHalf (Memory.writeHalf (Memory.writeHalf m o lo) (o + 2) hi) (o + 2) = hi :=
  Memory.readHalf_writeHalf_same _ _ _ (Memory.wf_writeHalf _ _ _ hwf)

/-- R100: a register write leaves every byte but the register's four. -/
theorem sameBytesBut_of_register {s t : State} (o : Offset) (lo hi : Half)
    (hw : t.window = Memory.writeHalf (Memory.writeHalf s.window o lo) (o + 2) hi) :
    s.sameBytesBut o t := by
  intro a h0 h1 h2 h3
  have h3' : a ≠ (o + 2 + 1).toNat := by rwa [BitVec.add_assoc]
  rw [hw, Memory.read_writeHalf_other _ _ _ _ h2 h3', Memory.read_writeHalf_other _ _ _ _ h0 h1]

/-! ## The program point of a transfer -/

/-- R81 and R104 give the same range of offsets. -/
theorem offsetRejected_eq_false {off : Offset} (h : regOffsetOk off = true) : offsetRejected off = false := by
  simp only [regOffsetOk, Bool.and_eq_true, beq_iff_eq, decide_eq_true_eq] at h
  obtain ⟨heven, hle⟩ := h
  have hbit : off.getLsbD 0 = false := by simp [BitVec.getLsbD, Nat.testBit_zero, heven]
  simp only [offsetRejected, hbit, Bool.false_or, decide_eq_false_iff_not]
  omega

@[simp] theorem startTransfer_false (s : State) :
    startTransfer false s = (s.setSeqst .single).setCmdst .xfer := rfl

/-- The request `i` is in progress at the program point of a transfer (R104, R105, R106). No transaction of a transfer
but the last writes any of these registers, so a proof for the accepted state is one for each state up to the last. -/
def State.transferring (i : Instr) (s : State) : Prop :=
  s.running i ∧ s.seqst = .single ∧ s.cmdst = .xfer

theorem State.transferring_accept (i : Instr) (f : Format) {s : State} (h : s.halted = false) :
    (startTransfer false (s.accept f (encode i))).transferring i := by
  simp [State.transferring, State.running, h]

section Transfers

variable {s : State}

theorem State.isOk_finishOk (v : Word) (h : s.halted = false) : (s.finishOk v).isOk := by
  simp [State.isOk, h]

/-- A legal transfer's transaction (R104, R105). -/
theorem atOffset_of_transferring {i : Instr} (h : s.transferring i) (hok : regOffsetOk s.curOff = true)
    (t : State) : atOffset s t = .next t := by
  obtain ⟨-, hseqst, hcmdst⟩ := h
  simp [atOffset, offsetRejected_eq_false hok, hseqst, hcmdst]

/-! ## WRITE_REG (R104) -/

section Offsets

variable {off : Offset} (hok : regOffsetOk off = true)

include hok

theorem exec_writeReg_accept (h : s.ready = true) :
    exec (.writeReg off) s =
      .next (startTransfer false (s.accept .hr (encode (.writeReg off)))) := by
  simp only [exec, execWriteReg]
  rw [State.runRequest_ready _ _ _ _ h]
  simp [offsetRejected_eq_false hok]

theorem exec_writeReg_transferring (h : s.transferring (.writeReg off)) (hoff : s.curOff = off) :
    exec (.writeReg off) s = .next (s.writeRegister off s.curVal (fun u => u.finishOk 0)) := by
  obtain ⟨hready, hhalted, hreq⟩ := h.1
  simp only [exec, execWriteReg]
  rw [State.runRequest_running _ _ _ _ hready hhalted hreq, atOffset_of_transferring h (hoff ▸ hok), hoff]

theorem exec_writeReg_low (h : s.transferring (.writeReg off)) (hoff : s.curOff = off)
    (hhalf : s.half = false) :
    exec (.writeReg off) s = .next ((s.portWrite off (loHalf s.curVal)).setHalf true) := by
  rw [exec_writeReg_transferring hok h hoff, State.writeRegister_low _ _ _ hhalf]

theorem exec_writeReg_high (h : s.transferring (.writeReg off)) (hoff : s.curOff = off)
    (hhalf : s.half = true) :
    exec (.writeReg off) s =
      .next (((s.portWrite (off + 2) (hiHalf s.curVal)).setHalf false).finishOk 0) := by
  rw [exec_writeReg_transferring hok h hoff, State.writeRegister_high _ _ _ hhalf]

/-! ## READ_REG (R105) -/

theorem exec_readReg_accept (h : s.ready = true) :
    exec (.readReg off) s =
      .next (startTransfer false (s.accept .hr (encode (.readReg off)))) := by
  simp only [exec, execReadReg]
  rw [State.runRequest_ready _ _ _ _ h]
  simp [offsetRejected_eq_false hok]

theorem exec_readReg_transferring (h : s.transferring (.readReg off)) (hoff : s.curOff = off) :
    exec (.readReg off) s = .next (s.readRegister off (fun v u => u.finishOk v)) := by
  obtain ⟨hready, hhalted, hreq⟩ := h.1
  simp only [exec, execReadReg]
  rw [State.runRequest_running _ _ _ _ hready hhalted hreq, atOffset_of_transferring h (hoff ▸ hok), hoff]

theorem exec_readReg_low (h : s.transferring (.readReg off)) (hoff : s.curOff = off)
    (hhalf : s.half = false) :
    exec (.readReg off) s =
      .next (((s.portRead off).setLatch (s.readValue off)).setHalf true) := by
  rw [exec_readReg_transferring hok h hoff, State.readRegister_low _ _ hhalf]

theorem exec_readReg_high (h : s.transferring (.readReg off)) (hoff : s.curOff = off)
    (hhalf : s.half = true) :
    exec (.readReg off) s =
      .next (((s.portRead (off + 2)).setHalf false).finishOk
        (joinHalves (s.readValue (off + 2)) s.latchLo)) := by
  rw [exec_readReg_transferring hok h hoff, State.readRegister_high _ _ hhalf]

end Offsets

/-! ## READ_MAC_SHADOW (R103, R106) -/

theorem exec_readMacShadow_accept (idx : BitVec 1) (h : s.ready = true) :
    exec (.readMacShadow idx) s =
      .next (startTransfer false (s.accept .hm (encode (.readMacShadow idx)))) := by
  simp only [exec, execReadMacShadow]
  exact State.runRequest_ready _ _ _ _ h

theorem exec_readMacShadow_transferring {idx : BitVec 1} {t : State}
    (h : s.transferring (.readMacShadow idx)) (ht : s.macShadowStep = t) :
    exec (.readMacShadow idx) s = .next t := by
  obtain ⟨⟨hready, hhalted, hreq⟩, hpoint⟩ := h
  simp only [exec, execReadMacShadow]
  rw [State.runRequest_running _ _ _ _ hready hhalted hreq, if_pos hpoint, ht]

theorem macShadowStep_writeLow (hm : s.macReading = false) (hhalf : s.half = false) :
    s.macShadowStep = (s.portWrite s.params.macCsrCmd (loHalf (macShadowWord s.curIdx))).setHalf true := by
  simp [State.macShadowStep, hm, State.writeRegister_low _ _ _ hhalf]

theorem macShadowStep_writeHigh (hm : s.macReading = false) (hhalf : s.half = true) :
    s.macShadowStep =
      ((s.portWrite (s.params.macCsrCmd + 2) (hiHalf (macShadowWord s.curIdx))).setHalf false).setMacReading
        true := by
  simp [State.macShadowStep, hm, State.writeRegister_high _ _ _ hhalf]

theorem macShadowStep_readLow (hm : s.macReading = true) (hhalf : s.half = false) :
    s.macShadowStep =
      ((s.portRead s.params.macCsrData).setLatch (s.readValue s.params.macCsrData)).setHalf true := by
  simp [State.macShadowStep, hm, State.readRegister_low _ _ hhalf]

theorem macShadowStep_readHigh (hm : s.macReading = true) (hhalf : s.half = true) :
    s.macShadowStep =
      ((s.portRead (s.params.macCsrData + 2)).setHalf false).finishOk
        (joinHalves (s.readValue (s.params.macCsrData + 2)) s.latchLo) := by
  simp [State.macShadowStep, hm, State.readRegister_high _ _ hhalf]

end Transfers

theorem loHalf_macShadowWord (idx : BitVec 1) : loHalf (macShadowWord idx) = idx.setWidth 16 := by
  revert idx; decide

theorem hiHalf_macShadowWord (idx : BitVec 1) : hiHalf (macShadowWord idx) = 0xC000 := by
  revert idx; decide

/-! ## The statements -/

/-- Settles O25: the acceptance and the two writes are one equation each; the two half-word writes hit four different
bytes, so both halves stand at the end. -/
theorem writeRegCompletes : Obligations.WriteRegCompletes := by
  unfold Obligations.WriteRegCompletes
  intro off s hready hhalted hok hwf
  have hpoint := State.transferring_accept (.writeReg off) .hr hhalted
  refine ⟨_, _, _, exec_writeReg_accept hok hready, exec_writeReg_low hok hpoint ?off1 ?half1,
    exec_writeReg_high hok hpoint ?off2 rfl, rfl, rfl, ?half1, rfl, ?trace2, ?trace3,
    State.isOk_finishOk _ ?halted, ?res, ?records, ?host, Memory.readHalf_register_low hwf _ _ _,
    Memory.readHalf_register_high hwf _ _ _, sameBytesBut_of_register _ _ _ rfl, ?registers⟩
  case records => simp [State.sameRecords]
  case host => simp [State.sameHost]
  case halted => simpa using hhalted
  case off1 | off2 | half1 | trace2 | trace3 | res | registers => simp

/-- Settles O26: as WRITE_REG, with the low half kept in LATCH_LO until the high half is read. -/
theorem readRegCompletes : Obligations.ReadRegCompletes := by
  unfold Obligations.ReadRegCompletes
  intro off s hready hhalted hok
  have hpoint := State.transferring_accept (.readReg off) .hr hhalted
  refine ⟨_, _, _, exec_readReg_accept hok hready, exec_readReg_low hok hpoint ?off1 ?half1,
    exec_readReg_high hok hpoint ?off2 rfl, rfl, rfl, ?half1, rfl, rfl, ?trace,
    State.isOk_finishOk _ ?halted, ?res, ?latch, ?window, ?records, ?host, ?registers⟩
  case records => simp [State.sameRecords]
  case host => simp [State.sameHost]
  case halted => simpa using hhalted
  case off1 | off2 | half1 | trace | res | latch | window | registers => simp

/-- Settles O27: the execution is deterministic, so the WRITE_REG is the one of `writeRegCompletes`; acceptance and the
low read leave the window alone, so the two reads return the halves it wrote. -/
theorem registerRoundTrip : Obligations.RegisterRoundTrip := by
  unfold Obligations.RegisterRoundTrip
  intro off s s1 s2 s3 u u1 u2 hready hhalted hok hwf hs1 hs2 hs3 hready' hhalted' hlow hhigh hu1 hm1 hu2 hm2
  obtain ⟨w1, w2, w3, hw1, hw2, hw3, -, -, -, -, -, -, -, -, -, -, hlow3, hhigh3, -⟩ :=
    writeRegCompletes off s hready hhalted hok hwf
  cases hw1.symm.trans hs1
  cases hw2.symm.trans hs2
  cases hw3.symm.trans hs3
  have hpoint := State.transferring_accept (.readReg off) .hr hhalted'
  cases (exec_readReg_accept hok hready').symm.trans hu1
  cases (exec_readReg_low hok hpoint (by simp) (by simp)).symm.trans hu2
  refine ⟨_, exec_readReg_high hok hpoint (by simp) rfl, State.isOk_finishOk _ (by simpa), ?_⟩
  calc
    _ = joinHalves (Memory.readHalf u.window (off + 2)) (Memory.readHalf u.window off) :=
      congrArg₂ joinHalves hm2 hm1
    _ = joinHalves (hiHalf s.argVal) (loHalf s.argVal) := by rw [hhigh, hlow, hhigh3, hlow3]
    _ = s.argVal := joinHalves_hiHalf_loHalf s.argVal

/-- Settles O28: `macReading` takes the four transactions in turn, the word's two writes and then the data's two
reads. -/
theorem readMacShadowCompletes : Obligations.ReadMacShadowCompletes := by
  unfold Obligations.ReadMacShadowCompletes
  intro idx s hready hhalted hwf
  have hpoint := State.transferring_accept (.readMacShadow idx) .hm hhalted
  refine ⟨_, _, _, _, _, exec_readMacShadow_accept idx hready,
    exec_readMacShadow_transferring hpoint (macShadowStep_writeLow ?mac1 ?half1),
    exec_readMacShadow_transferring hpoint (macShadowStep_writeHigh ?mac2 rfl),
    exec_readMacShadow_transferring hpoint (macShadowStep_readLow rfl rfl),
    exec_readMacShadow_transferring hpoint (macShadowStep_readHigh rfl rfl),
    ?trace, State.isOk_finishOk _ ?halted, ?res, ?records, ?host, sameBytesBut_of_register _ _ _ rfl,
    (Memory.readHalf_register_low hwf _ _ _).trans ?low,
    (Memory.readHalf_register_high hwf _ _ _).trans ?high, ?registers⟩
  case trace => simp [loHalf_macShadowWord, hiHalf_macShadowWord]
  case low => simp [loHalf_macShadowWord]
  case high => simp [hiHalf_macShadowWord]
  case records => simp [State.sameRecords]
  case host => simp [State.sameHost]
  case halted => simpa using hhalted
  case mac1 | half1 | mac2 | res | registers => simp

end Sys2Proof.Machine

/-! PROOFS. The protocol primitives (41_protocol_primitives.md): SUBMIT as its acceptance and the two register writes of
each phase, one equation for each step. -/

namespace Sys2Proof.Machine

/-- A register write keeps the window's canonical form. -/
theorem Memory.wf_register {m : Memory} (hwf : Memory.wf m = true) (o : Offset) (lo hi : Half) :
    Memory.wf (Memory.writeHalf (Memory.writeHalf m o lo) (o + 2) hi) = true :=
  Memory.wf_writeHalf _ _ _ (Memory.wf_writeHalf _ _ _ hwf)

theorem State.sameBytesBut.trans {o : Offset} {s t u : State} (h : s.sameBytesBut o t) (h' : t.sameBytesBut o u) :
    s.sameBytesBut o u :=
  fun a h0 h1 h2 h3 => (h' a h0 h1 h2 h3).trans (h a h0 h1 h2 h3)

/-! ## The program points of SUBMIT (R127) -/

/-- `SUBMIT c, a` is in progress in the phase `p`. A port write changes none of these registers, so a proof for the
accepted state is one for each later state too, up to the CMDST between the phases. -/
def State.submitting (c : Cmd) (a : Byte) (p : CmdSt) (s : State) : Prop :=
  s.running (.submit c a) ∧ s.seqst = .single ∧ s.cmdst = p ∧ s.curCmd = c ∧ s.curAddr = a

/-- R127 up to the first transaction. -/
@[simp] def startSubmit (s : State) : State := ((s.setSeqst .single).setCell 0).setCmdst .issue1

section Submit

variable {c : Cmd} {a : Byte} {s : State}

theorem State.submitting_accept (h : s.halted = false) :
    (startSubmit (s.accept .hs (encode (.submit c a)))).submitting c a .issue1 := by
  simp [State.submitting, State.running, h]

theorem State.submitting.setCmdst {p : CmdSt} (h : s.submitting c a p) (q : CmdSt) :
    (s.setCmdst q).submitting c a q := by
  obtain ⟨hrun, hseqst, -, hcmd, haddr⟩ := h
  exact ⟨hrun, hseqst, rfl, hcmd, haddr⟩

theorem exec_submit_accept (h : s.ready = true) :
    exec (.submit c a) s = .next (startSubmit (s.accept .hs (encode (.submit c a)))) := by
  simp only [exec, execSubmit]
  exact State.runRequest_ready _ _ _ _ h

theorem exec_submit_issue1 (h : s.submitting c a .issue1) :
    exec (.submit c a) s = .next (s.issue1 c a) := by
  obtain ⟨⟨hready, hhalted, hreq⟩, hseqst, hcmdst, hcmd, haddr⟩ := h
  simp only [exec, execSubmit]
  rw [State.runRequest_running _ _ _ _ hready hhalted hreq, if_pos ⟨hseqst, hcmdst⟩, hcmd, haddr]

theorem exec_submit_issue2 (h : s.submitting c a .issue2) :
    exec (.submit c a) s = .next (s.issue2 c a (fun u => u.finishOk 0)) := by
  obtain ⟨⟨hready, hhalted, hreq⟩, hseqst, hcmdst, hcmd, haddr⟩ := h
  simp only [exec, execSubmit]
  rw [State.runRequest_running _ _ _ _ hready hhalted hreq, if_neg (by simp [hcmdst]), if_pos ⟨hseqst, hcmdst⟩,
    hcmd, haddr]

/-! ## The two phases (R122) -/

theorem exec_submit_issue1_low (h : s.submitting c a .issue1) (hhalf : s.half = false) :
    exec (.submit c a) s =
      .next ((s.portWrite s.params.e2pCmd (loHalf (cmdWord false c a))).setHalf true) := by
  rw [exec_submit_issue1 h, State.issue1, State.writeRegister_low _ _ _ hhalf]

theorem exec_submit_issue1_high (h : s.submitting c a .issue1) (hhalf : s.half = true) :
    exec (.submit c a) s =
      .next (((s.portWrite (s.params.e2pCmd + 2) (hiHalf (cmdWord false c a))).setHalf false).setCmdst .issue2) := by
  rw [exec_submit_issue1 h, State.issue1, State.writeRegister_high _ _ _ hhalf]

theorem exec_submit_issue2_low (h : s.submitting c a .issue2) (hhalf : s.half = false) :
    exec (.submit c a) s =
      .next ((s.portWrite s.params.e2pCmd (loHalf (cmdWord true c a))).setHalf true) := by
  rw [exec_submit_issue2 h, State.issue2, State.writeRegister_low _ _ _ hhalf]

theorem exec_submit_issue2_high (h : s.submitting c a .issue2) (hhalf : s.half = true) :
    exec (.submit c a) s =
      .next (((s.portWrite (s.params.e2pCmd + 2) (hiHalf (cmdWord true c a))).setHalf false).finishOk 0) := by
  rw [exec_submit_issue2 h, State.issue2, State.writeRegister_high _ _ _ hhalf]

end Submit

/-! ## The statement -/

/-- Settles O29: the acceptance and the four writes are one equation each; phase 2 writes the register of phase 1 again,
so its word is the one that stands at the end. -/
theorem submitCompletes : Obligations.SubmitCompletes := by
  unfold Obligations.SubmitCompletes
  intro c a s hready hhalted hwf
  have hphase1 := State.submitting_accept (c := c) (a := a) hhalted
  have hphase2 := hphase1.setCmdst .issue2
  have hwf1 := Memory.wf_register hwf s.params.e2pCmd (loHalf (cmdWord false c a)) (hiHalf (cmdWord false c a))
  refine ⟨_, _, _, _, _, exec_submit_accept hready, exec_submit_issue1_low hphase1 ?half1,
    exec_submit_issue1_high hphase1 rfl, exec_submit_issue2_low hphase2 rfl, exec_submit_issue2_high hphase2 rfl,
    rfl, rfl, ?trace, State.isOk_finishOk _ ?halted, ?res, ?records, ?host, ?bytes,
    Memory.readHalf_register_low hwf1 _ _ _, Memory.readHalf_register_high hwf1 _ _ _, ?registers⟩
  case trace => simp [submitEvents, writeEvents]
  case bytes => exact (sameBytesBut_of_register s.params.e2pCmd _ _ rfl).trans (sameBytesBut_of_register _ _ _ rfl)
  case records => simp [State.sameRecords]
  case host => simp [State.sameHost]
  case halted => simpa using hhalted
  case half1 | res | registers => simp

end Sys2Proof.Machine

/-! PROOFS. The course of a request (43_sequencer.md R174): its transaction steps in order, and the run they make when the
host's own actions stand between them (R21 to R23). -/

namespace Sys2Proof.Machine

/-! ## The host's side of the state -/

/-- The pending actions and the registers that a host's write stores in (R22, R23). -/
structure HostSide where
  inputs : List Input
  argVal : Word
  argMac : Vector Byte 6

def State.withHost (h : HostSide) (s : State) : State :=
  { s with inputs := h.inputs, argVal := h.argVal, argMac := h.argMac }

def State.hostSide (s : State) : HostSide := ⟨s.inputs, s.argVal, s.argMac⟩

/-- A step's result with the host's side put in place of its own. -/
def resultWithHost (h : HostSide) : Result → Result
  | .next s => .next (s.withHost h)
  | .fault f => .fault f
  | .refused r => .refused r

/-- A rest of a step that neither reads nor writes the host's side. -/
def IgnoresHost (k : State → State) : Prop := ∀ (h : HostSide) (u : State), k (u.withHost h) = (k u).withHost h

section HostSide

variable (h : HostSide) {s : State}

theorem writeRegister_withHost (o : Offset) (v : Word) {k : State → State} (hk : IgnoresHost k) :
    (s.withHost h).writeRegister o v k = (s.writeRegister o v k).withHost h := by
  refine State.writeRegister_cases (fun t => _ = t.withHost h) o v k (fun hl => ?low) (fun hh => ?high)
  case low => exact State.writeRegister_low _ _ _ hl
  case high =>
    exact (State.writeRegister_high (s := s.withHost h) o v k hh).trans
      (hk h ((s.portWrite (o + 2) (hiHalf v)).setHalf false))

theorem readRegister_withHost (o : Offset) {k : Word → State → State} (hk : ∀ v, IgnoresHost (k v)) :
    (s.withHost h).readRegister o k = (s.readRegister o k).withHost h := by
  refine State.readRegister_cases (fun t => _ = t.withHost h) o k (fun hl => ?low) (fun hh => ?high)
  case low => exact State.readRegister_low _ _ hl
  case high =>
    exact (State.readRegister_high (s := s.withHost h) o k hh).trans
      (hk _ h ((s.portRead (o + 2)).setHalf false))

theorem poll_withHost {k : Word → State → State} (hk : ∀ v, IgnoresHost (k v)) :
    (s.withHost h).poll k = (s.poll k).withHost h := by
  refine readRegister_withHost h _ fun v h u => ?_
  split
  · rfl
  · exact hk v h (u.setLastCmd v)

theorem checkTimeout_withHost {k : Word → State → State} (hk : ∀ v, IgnoresHost (k v)) :
    (s.withHost h).checkTimeout k = (s.checkTimeout k).withHost h := by
  refine readRegister_withHost h _ fun v h u => ?_
  split
  · rfl
  · exact hk v h ((u.setLastCmd v).setTo false)

theorem CellOp.ignoresHost_afterBusy (op : CellOp) {k : Word → State → State} (hk : ∀ v, IgnoresHost (k v))
    (v : Word) : IgnoresHost (op.afterBusy k v) := by
  cases op with
  | read | unlock => exact fun _ _ => rfl
  | write | lock => exact hk v

theorem cellStep_withHost (op : CellOp) {k : Word → State → State} (hk : ∀ v, IgnoresHost (k v)) :
    (s.withHost h).cellStep op k = resultWithHost h (s.cellStep op k) := by
  have label (c : CmdSt) : IgnoresHost (State.setCmdst c) := fun _ _ => rfl
  have hcmdst : (s.withHost h).cmdst = s.cmdst := rfl
  unfold State.cellStep
  rw [hcmdst]
  cases s.cmdst with
  | prewait => exact congrArg _ (poll_withHost h fun _ => label _)
  | data =>
    dsimp only
    split
    · exact congrArg _ (writeRegister_withHost h _ _ (label _))
    · rfl
  | issue1 => exact congrArg _ (writeRegister_withHost h _ _ (label _))
  | issue2 => exact congrArg _ (writeRegister_withHost h _ _ (label _))
  | busy => exact congrArg _ (poll_withHost h (op.ignoresHost_afterBusy hk))
  | check =>
    dsimp only
    split
    · exact congrArg _ (checkTimeout_withHost h hk)
    · rfl
  | read =>
    dsimp only
    split
    · exact congrArg _ (readRegister_withHost h _ hk)
    · rfl
  | idle | complete | timeout | xfer => rfl

end HostSide

theorem dumpNext_ignoresHost {setImg : CellIx → Byte → State → State} {k : State → State}
    (himg : ∀ c b, IgnoresHost (setImg c b)) (hk : IgnoresHost k) (d : Word) : IgnoresHost (dumpNext setImg k d) := by
  intro h u
  have hcell : (u.withHost h).cell = u.cell := rfl
  unfold dumpNext
  rw [hcell, himg]
  split
  · exact hk h _
  · rfl

theorem writeNext_ignoresHost : IgnoresHost writeNext := by
  intro h u
  have hcell : (u.withHost h).cell = u.cell := rfl
  unfold writeNext
  rw [hcell]
  split <;> rfl

/-- R22, R23: the transaction steps of PROGRAM_ADDRESS do not see the host's side. -/
theorem programStep_withHost (h : HostSide) (s : State) :
    programStep (s.withHost h) = resultWithHost h (programStep s) := by
  have hseqst : (s.withHost h).seqst = s.seqst := rfl
  unfold programStep
  rw [hseqst]
  cases s.seqst with
  | dumpPre =>
    exact cellStep_withHost h _ (dumpNext_ignoresHost (fun _ _ _ _ => rfl) fun _ _ => rfl)
  | unlock | lock => exact cellStep_withHost h _ fun _ _ _ => rfl
  | write => exact cellStep_withHost h _ fun _ => writeNext_ignoresHost
  | dumpPost =>
    exact cellStep_withHost h _ (dumpNext_ignoresHost (fun _ _ _ _ => rfl) fun _ _ => rfl)
  | idle | single | halted => rfl

/-! ## The course of a request -/

/-- `n` transaction steps of the request `i`, from `s` to `t`. -/
inductive Course (i : Instr) : Nat → State → State → Prop
  | nil (s : State) : Course i 0 s s
  | cons {n : Nat} {s u t : State} (running : s.running i) (step : exec i s = .next u) (rest : Course i n u t) :
      Course i (n + 1) s t

theorem Course.trans {i : Instr} {m n : Nat} {s u t : State} (h : Course i m s u) (h' : Course i n u t) :
    Course i (m + n) s t := by
  induction h with
  | nil s => simpa using h'
  | @cons m s u' u running step rest ih =>
    rw [Nat.add_right_comm]
    exact .cons running step (ih h')

/-- A request that decodes from its own word and whose transaction steps do not see the host's side (R22, R23, R224). -/
def HostIndependent (i : Instr) : Prop :=
  decodeReq (encode i) = .ok i ∧
    ∀ (h : HostSide) (s u : State), s.running i → exec i s = .next u →
      exec i (s.withHost h) = .next (u.withHost h)

theorem exec_programAddress_running {s : State} (h : s.running .programAddress) :
    exec .programAddress s = programStep s := by
  obtain ⟨hready, hhalted, hreq⟩ := h
  simp only [exec, execProgramAddress]
  exact State.runRequest_running _ _ _ _ hready hhalted hreq

theorem programAddress_hostIndependent : HostIndependent .programAddress := by
  refine ⟨by decide, fun h s u hs hu => ?_⟩
  have hs' : (s.withHost h).running .programAddress := hs
  rw [exec_programAddress_running hs] at hu
  rw [exec_programAddress_running hs', programStep_withHost, hu]
  rfl

theorem State.fetchRunning_of_running {i : Instr} {s : State} (hdecode : decodeReq (encode i) = .ok i)
    (hs : s.running i) : s.fetchRunning = .instr i s := by
  obtain ⟨hready, hhalted, hreq⟩ := hs
  simp [State.fetchRunning, hready, hhalted, hreq, hdecode]

theorem run_of_instr {i : Instr} {s t u : State} (hf : s.fetch = .instr i t) (hu : exec i t = .next u) :
    run 1 s = .next u := by
  have hstep : step s = .next u := by simp [step, hf, hu]
  rw [run_succ _ _ _ hstep, run_zero]

theorem run_of_settled {s t : State} (hf : s.fetch = .settled t) (n : Nat) : run (n + 1) s = run n t :=
  run_succ _ _ _ (by simp [step, hf])

/-- R174: a request in progress takes its next transaction step, after one step for each of the host's writes that stand
before it (log entry 6). -/
theorem run_to_transaction {i : Instr} (hi : HostIndependent i) {s u : State} (hs : s.running i)
    (hu : exec i s = .next u) (h : HostSide) (hleaves : h.inputs.all Input.leavesOperation = true) :
    ∃ (k : Nat) (h' : HostSide), k + h'.inputs.length ≤ h.inputs.length ∧
      h'.inputs.all Input.leavesOperation = true ∧ run (k + 1) (s.withHost h) = .next (u.withHost h') := by
  obtain ⟨ins, v, a⟩ := h
  obtain ⟨hdecode, hexec⟩ := hi
  have hready : s.ready = false := hs.1
  have hhalted : s.halted = false := hs.2.1
  have hexec' (h : HostSide) : exec i (s.withHost h) = .next (u.withHost h) := hexec h s u hs hu
  have hfetch (h : HostSide) : (s.withHost h).fetchRunning = .instr i (s.withHost h) :=
    State.fetchRunning_of_running (s := s.withHost h) hdecode hs
  induction ins generalizing v a with
  | nil => exact ⟨0, ⟨[], v, a⟩, by simp, rfl, run_of_instr (hfetch _) (hexec' _)⟩
  | cons input ins ih =>
    simp only [List.all_cons, Bool.and_eq_true] at hleaves
    obtain ⟨hinput, hins⟩ := hleaves
    have skip (v' : Word) (a' : Vector Byte 6)
        (hf : (s.withHost ⟨input :: ins, v, a⟩).fetch = .settled (s.withHost ⟨ins, v', a'⟩)) :
        ∃ (k : Nat) (h' : HostSide), k + h'.inputs.length ≤ (input :: ins).length ∧
          h'.inputs.all Input.leavesOperation = true ∧
          run (k + 1) (s.withHost ⟨input :: ins, v, a⟩) = .next (u.withHost h') := by
      obtain ⟨k, h', hlen, hall, hrun⟩ := ih v' a' hins
      refine ⟨k + 1, h', ?_, hall, (run_of_settled hf _).trans hrun⟩
      simp only [List.length_cons] at hlen ⊢
      omega
    cases input with
    | tick => exact ⟨0, ⟨ins, v, a⟩, by simp, hins, run_of_instr (hfetch ⟨ins, v, a⟩) (hexec' _)⟩
    | poll =>
      have hpoll : (s.withHost ⟨.poll :: ins, v, a⟩).fetch = .instr i (s.withHost ⟨.poll :: ins, v, a⟩) := by
        simpa [State.fetch, State.withHost, hready, hhalted] using hfetch ⟨.poll :: ins, v, a⟩
      exact ⟨0, ⟨.poll :: ins, v, a⟩, by simp, by simp [hins, Input.leavesOperation], run_of_instr hpoll (hexec' _)⟩
    | writeReq q =>
      exact skip v a (by simp [State.fetch, State.fetchRequest, State.withHost, hready])
    | writeArgVal w => exact skip w a rfl
    | writeArgMac j b => exact skip v _ rfl
    | reset | command w | indirect x => simp [Input.leavesOperation] at hinput

/-- A course is a run, whatever the host writes in its course: each transaction takes one step, and each pending action at
most one of its own (R174, log entry 6). -/
theorem Course.run_withHost {i : Instr} (hi : HostIndependent i) {n : Nat} {s t : State} (hc : Course i n s t)
    (h : HostSide) (hleaves : h.inputs.all Input.leavesOperation = true) :
    ∃ (k : Nat) (h' : HostSide), k ≤ h.inputs.length ∧ run (n + k) (s.withHost h) = .next (t.withHost h') := by
  suffices hstrong : ∃ (k : Nat) (h' : HostSide), k + h'.inputs.length ≤ h.inputs.length ∧
      run (n + k) (s.withHost h) = .next (t.withHost h') by
    obtain ⟨k, h', hlen, hrun⟩ := hstrong
    exact ⟨k, h', by omega, hrun⟩
  induction hc generalizing h with
  | nil s => exact ⟨0, h, by simp, rfl⟩
  | @cons n s u t running step rest ih =>
    obtain ⟨k, h₁, hlen, hall, hrun⟩ := run_to_transaction hi running step h hleaves
    obtain ⟨k', h₂, hlen', hrun'⟩ := ih h₁ hall
    refine ⟨k + k', h₂, by omega, ?_⟩
    calc
      run (n + 1 + (k + k')) (s.withHost h) = run (k + 1 + (n + k')) (s.withHost h) := by congr 1; omega
      _ = run (n + k') (u.withHost h₁) := run_add _ _ _ _ hrun
      _ = .next (t.withHost h₂) := hrun'

end Sys2Proof.Machine

/-! PROOFS. Cell operations against a live device (42_cell_operations.md R125, R140 to R146): the course that each one
takes from its pre-wait to its end, and the bus trace it adds. -/

namespace Sys2Proof.Machine

/-! ## The live device's answers (R56) -/

section LiveDevice

variable {s : State} {v : Half} {answers : List Half} {n : Nat}

theorem readValue_of_live (h : s.device = liveDevice (v :: answers) n) (o : Offset) : s.readValue o = v := by
  simp [State.readValue, h, Device.answer, liveDevice, Device.freeHalf]

end LiveDevice

theorem busyBit_readPair (r : ReadPair) : busyBit r.value = r.hi.getLsbD 15 := by
  simp only [busyBit, ReadPair.value, joinHalves, BitVec.getLsbD_append]
  rfl

theorem timeoutBit_readPair (r : ReadPair) : timeoutBit r.value = r.lo.getLsbD 9 := by
  simp only [timeoutBit, ReadPair.value, joinHalves, BitVec.getLsbD_append]
  rfl

/-! ## Between two register accesses -/

/-- What the transactions of a register access and of a poll write. -/
structure PortSide where
  device : Device
  window : Memory
  trace : List BusEvent
  lastCmd : Word
  latchLo : Half
  half : Bool

/-- The EPB's other registers do not move while a register access or a poll is on the port. -/
def State.withPort (m : PortSide) (s : State) : State :=
  { s with
    device := m.device, window := m.window, trace := m.trace, lastCmd := m.lastCmd, latchLo := m.latchLo
    half := m.half }

def State.portSide (s : State) : PortSide := ⟨s.device, s.window, s.trace, s.lastCmd, s.latchLo, s.half⟩

@[simp] theorem State.withPort_portSide (s : State) : s.withPort s.portSide = s := rfl

@[simp] theorem State.withPort_withPort (m m' : PortSide) (s : State) : (s.withPort m).withPort m' = s.withPort m' :=
  rfl

/-- The port's registers after the write of `v` at `o`, the next transaction being on the half `half`. -/
def PortSide.wrote (m : PortSide) (p : Params) (o : Offset) (v : Half) (half : Bool) : PortSide :=
  { m with
    device := m.device.afterWrite p o v, window := Memory.writeHalf m.window o v
    trace := m.trace ++ [.write o v], half }

/-- The port's registers after a read at `o` that returned `v`. -/
def PortSide.got (m : PortSide) (p : Params) (o : Offset) (v latch : Half) (half : Bool) : PortSide :=
  { m with
    device := m.device.afterRead p o, trace := m.trace ++ [.read o v], latchLo := latch, half }

def PortSide.setLastCmd (v : Word) (m : PortSide) : PortSide := { m with lastCmd := v }

theorem State.setLastCmd_withPort (v : Word) (m : PortSide) (s : State) :
    (s.withPort m).setLastCmd v = s.withPort (m.setLastCmd v) := rfl

/-- The request `i` stands between two register accesses: with parameters `p` and latched address `a`, before a live
device that answers `answers` next, after the bus trace `tr`. -/
structure State.Midway (i : Instr) (p : Params) (a : Vector Byte 6) (n : Nat) (answers : List Half)
    (tr : List BusEvent) (s : State) : Prop where
  running : s.running i
  params : s.params = p
  curMac : s.curMac = a
  half : s.half = false
  device : s.device = liveDevice answers n
  trace : s.trace = tr

section Blocks

variable {i : Instr} {p : Params} {a : Vector Byte 6} {n : Nat} {rest : List Half} {tr : List BusEvent} {s : State}

/-- Nothing that `Midway` speaks of has moved from `s` to `t`. -/
def State.sameMidway (s t : State) : Prop :=
  t.ready = s.ready ∧ t.halted = s.halted ∧ t.req = s.req ∧ t.params = s.params ∧ t.curMac = s.curMac ∧
    t.half = s.half ∧ t.device = s.device ∧ t.trace = s.trace

theorem State.Midway.of_same {t : State} (h : s.Midway i p a n rest tr) (hst : s.sameMidway t) :
    t.Midway i p a n rest tr := by
  obtain ⟨hready, hhalted, hreq, hparams, hcurMac, hhalf, hdevice, htrace⟩ := hst
  obtain ⟨sready, shalted, sreq⟩ := h.running
  exact ⟨⟨hready.trans sready, hhalted.trans shalted, hreq.trans sreq⟩, hparams.trans h.params,
    hcurMac.trans h.curMac, hhalf.trans h.half, hdevice.trans h.device, htrace.trans h.trace⟩

theorem State.Midway.setCmdst (h : s.Midway i p a n rest tr) (c : CmdSt) :
    (s.setCmdst c).Midway i p a n rest tr :=
  h.of_same (by simp [State.sameMidway])

theorem State.Midway.setTo (h : s.Midway i p a n rest tr) (b : Bool) : (s.setTo b).Midway i p a n rest tr :=
  h.of_same (by simp [State.sameMidway])

theorem State.Midway.withPort {rest' : List Half} {tr' : List BusEvent} (h : s.Midway i p a n rest tr) {m : PortSide}
    (hhalf : m.half = false) (hdevice : m.device = liveDevice rest' n) (htrace : m.trace = tr') :
    (s.withPort m).Midway i p a n rest' tr' :=
  ⟨h.running, h.params, h.curMac, hhalf, hdevice, htrace⟩

theorem State.Midway.setLastCmd {m : PortSide} (h : (s.withPort m).Midway i p a n rest tr) (v : Word) :
    (s.withPort (m.setLastCmd v)).Midway i p a n rest tr :=
  ⟨h.running, h.params, h.curMac, h.half, h.device, h.trace⟩

theorem PortSide.wrote_device {m : PortSide} {o : Offset} {v : Half} {half : Bool}
    (h : m.device = liveDevice rest n) : (m.wrote p o v half).device = liveDevice rest n := by
  simp [PortSide.wrote, h, Device.afterWrite, liveDevice]

theorem PortSide.got_device {m : PortSide} {o : Offset} {v w latch : Half} {half : Bool}
    (h : m.device = liveDevice (w :: rest) n) : (m.got p o v latch half).device = liveDevice rest n := by
  simp [PortSide.got, h, Device.afterRead, liveDevice, Device.drawn]

theorem readLow_eq {o : Offset} {v : Half} (h : s.readValue o = v) :
    ((s.portRead o).setLatch v).setHalf true = s.withPort (s.portSide.got s.params o v v true) := by
  subst h
  rfl

theorem readHigh_eq {m : PortSide} {o : Offset} {v : Half} (h : (s.withPort m).readValue o = v) :
    ((s.withPort m).portRead o).setHalf false = s.withPort (m.got s.params o v m.latchLo false) := by
  subst h
  rfl

/-- The two transactions of a register access, the second one followed by `k`. -/
theorem course_halves {low : PortSide} {t : State} (hs : s.running i) (hlow : exec i s = .next (s.withPort low))
    (hhigh : exec i (s.withPort low) = .next t) : Course i 2 s t :=
  have hrunning : (s.withPort low).running i := hs
  .cons hs hlow (.cons hrunning hhigh (.nil t))

/-- R100: both transactions of a register write. -/
theorem course_writeRegister {o : Offset} {v : Word} {k : State → State} (h : s.Midway i p a n rest tr)
    (hexec : ∀ m, exec i (s.withPort m) = .next ((s.withPort m).writeRegister o v k)) :
    ∃ m, Course i (writeEvents o v).length s (k (s.withPort m)) ∧
      (s.withPort m).Midway i p a n rest (tr ++ writeEvents o v) := by
  let low := s.portSide.wrote s.params o (loHalf v) true
  let high := low.wrote s.params (o + 2) (hiHalf v) false
  have hlow : exec i s = .next (s.withPort low) :=
    (hexec s.portSide).trans (congrArg _ (State.writeRegister_low o v k h.half))
  have hhigh : exec i (s.withPort low) = .next (k (s.withPort high)) :=
    (hexec low).trans (congrArg _ (State.writeRegister_high (s := s.withPort low) o v k rfl))
  have hdevice : low.device = liveDevice rest n := PortSide.wrote_device h.device
  refine ⟨high, course_halves h.running hlow hhigh, h.withPort rfl (PortSide.wrote_device hdevice) ?_⟩
  have htrace : s.portSide.trace = tr := h.trace
  simp [high, low, PortSide.wrote, htrace, writeEvents]

/-- R101: both transactions of a register read, which joins the device's next two answers. -/
theorem course_readRegister {o : Offset} {k : Word → State → State} (r : ReadPair)
    (h : s.Midway i p a n (r.answers ++ rest) tr)
    (hexec : ∀ m, exec i (s.withPort m) = .next ((s.withPort m).readRegister o k)) :
    ∃ m, Course i (r.events o).length s (k r.value (s.withPort m)) ∧
      (s.withPort m).Midway i p a n rest (tr ++ r.events o) := by
  let low := s.portSide.got s.params o r.lo r.lo true
  let high := low.got s.params (o + 2) r.hi r.lo false
  have hlo : s.readValue o = r.lo := readValue_of_live h.device o
  have hdevice : low.device = liveDevice (r.hi :: rest) n := PortSide.got_device h.device
  have hhi : (s.withPort low).readValue (o + 2) = r.hi := readValue_of_live (s := s.withPort low) hdevice _
  have hlow : exec i s = .next (s.withPort low) := by
    refine (hexec s.portSide).trans (congrArg _ ?_)
    rw [State.withPort_portSide, State.readRegister_low o k h.half, hlo]
    exact readLow_eq hlo
  have hhigh : exec i (s.withPort low) = .next (k r.value (s.withPort high)) := by
    refine (hexec low).trans (congrArg _ ?_)
    rw [State.readRegister_high (s := s.withPort low) o k rfl, readHigh_eq hhi, hhi]
    rfl
  refine ⟨high, course_halves h.running hlow hhigh, h.withPort rfl (PortSide.got_device hdevice) ?_⟩
  have htrace : s.portSide.trace = tr := h.trace
  simp [high, low, PortSide.got, htrace, ReadPair.events]

/-- What follows an iteration of a wait whose read returned `v` (R120). -/
def pollNext (k : Word → State → State) (v : Word) (t : State) : State :=
  if busyBit v then t.setLastCmd v else k v (t.setLastCmd v)

/-- R120: one iteration of a wait. -/
theorem course_iteration {k : Word → State → State} (r : ReadPair) (h : s.Midway i p a n (r.answers ++ rest) tr)
    (hexec : ∀ m, exec i (s.withPort m) = .next ((s.withPort m).poll k)) :
    ∃ m, Course i (r.events p.e2pCmd).length s
        (if r.hi.getLsbD 15 then s.withPort m else k r.value (s.withPort m)) ∧
      (s.withPort m).Midway i p a n rest (tr ++ r.events p.e2pCmd) := by
  have hread : ∀ m, exec i (s.withPort m) = .next ((s.withPort m).readRegister p.e2pCmd (pollNext k)) := by
    rw [← h.params]
    exact hexec
  obtain ⟨m, hcourse, hm⟩ := course_readRegister r h hread
  refine ⟨m.setLastCmd r.value, ?_, hm.setLastCmd _⟩
  rwa [pollNext, busyBit_readPair, State.setLastCmd_withPort] at hcourse

/-- R120, R121: a wait that ends: the busy iterations stay in the loop, the last one leaves it with its value. -/
theorem course_poll {k : Word → State → State} (w : Wait) (hok : w.ok = true)
    (h : s.Midway i p a n (w.answers ++ rest) tr)
    (hexec : ∀ m, exec i (s.withPort m) = .next ((s.withPort m).poll k)) :
    ∃ m, Course i (w.events p).length s (k w.last.value (s.withPort m)) ∧
      (s.withPort m).Midway i p a n rest (tr ++ w.events p) := by
  obtain ⟨busy, last⟩ := w
  simp only [Wait.ok, Bool.and_eq_true, Bool.not_eq_true'] at hok
  obtain ⟨hbusy, hlast⟩ := hok
  simp only [Wait.answers, Wait.events, Wait.polls] at h ⊢
  induction busy generalizing s tr with
  | nil =>
    obtain ⟨m, hcourse, hm⟩ := course_iteration last (by simpa using h) hexec
    rw [hlast, if_neg Bool.false_ne_true] at hcourse
    exact ⟨m, by simpa using hcourse, by simpa using hm⟩
  | cons r busy ih =>
    simp only [List.all_cons, Bool.and_eq_true] at hbusy
    obtain ⟨hr, hbusy⟩ := hbusy
    obtain ⟨m, hcourse, hm⟩ :=
      course_iteration (rest := (busy ++ [last]).flatMap ReadPair.answers ++ rest) r (by simpa using h) hexec
    rw [hr, if_pos rfl] at hcourse
    obtain ⟨m', hcourse', hm'⟩ := ih (s := s.withPort m) hexec hm hbusy
    rw [State.withPort_withPort] at hcourse' hm'
    refine ⟨m', ?_, by simpa using hm'⟩
    rw [List.cons_append, List.flatMap_cons, List.length_append]
    exact hcourse.trans hcourse'

end Blocks

/-! ## Cell operations (R125, R172) -/

/-- In phase `q` the transaction steps of the request `i` are those of the cell operation `op`, followed by `k`. -/
def Performs (i : Instr) (q : SeqSt) (op : CellOp) (k : Word → State → State) : Prop :=
  ∀ s : State, s.running i → s.seqst = q → exec i s = s.cellStep op k

/-- The events of a cell operation before its tail read. -/
def CellRun.eventsToTail (p : Params) (op : CellOp) (c : CellIx) (b : Byte) (r : CellRun) : List BusEvent :=
  r.pre.events p ++ (if op = .write then writeEvents p.e2pData (dataWord b) else []) ++
    submitEvents p op.cmd (cellAddr c) ++ r.post.events p

theorem CellRun.events_eq (p : Params) (op : CellOp) (c : CellIx) (b : Byte) (r : CellRun) :
    r.events p op c b = r.eventsToTail p op c b ++ (if op.hasTail then r.tail.events (op.tailOff p) else []) := rfl

/-- The state `s` moved to the point `c` of its cell operation, with the port's registers `m`. -/
def State.placed (c : CmdSt) (m : PortSide) (s : State) : State := (s.setCmdst c).withPort m

theorem State.placed_self {c : CmdSt} {s : State} (h : s.cmdst = c) : s.placed c s.portSide = s := by
  subst h
  rfl

section CellOps

variable {i : Instr} {q : SeqSt} {op : CellOp} {k : Word → State → State} {p : Params} {a : Vector Byte 6} {n : Nat}
  {rest : List Half} {tr : List BusEvent} {s : State} {m : PortSide}

theorem State.Midway.placed {c : CmdSt} (h : (s.placed c m).Midway i p a n rest tr) (c' : CmdSt) :
    (s.placed c' m).Midway i p a n rest tr :=
  h.setCmdst c'

/-- A register write that leads from the point `c` to the point `c'`. -/
theorem course_placedWrite {c c' : CmdSt} {o : Offset} {v : Word} (h : (s.placed c m).Midway i p a n rest tr)
    (hexec : ∀ m', exec i (s.placed c m') = .next ((s.placed c m').writeRegister o v (State.setCmdst c'))) :
    ∃ m', Course i (writeEvents o v).length (s.placed c m) (s.placed c' m') ∧
      (s.placed c' m').Midway i p a n rest (tr ++ writeEvents o v) := by
  obtain ⟨m', hcourse, hm'⟩ := course_writeRegister h hexec
  exact ⟨m', hcourse, hm'.setCmdst c'⟩

section Points

variable (hi : Performs i q op k) (hrunning : s.running i) (hparams : s.params = p) (hq : s.seqst = q)

include hi hrunning hq

theorem exec_placed (c : CmdSt) (m : PortSide) : exec i (s.placed c m) = (s.placed c m).cellStep op k :=
  hi _ hrunning hq

/-- R120, R172: the wait at a point of the operation. -/
theorem course_placedPoll {c : CmdSt} {next : Word → State → State}
    (hpoint : ∀ m, (s.placed c m).cellStep op k = .next ((s.placed c m).poll next)) (w : Wait) (hok : w.ok = true)
    (h : (s.placed c m).Midway i p a n (w.answers ++ rest) tr) :
    ∃ m', Course i (w.events p).length (s.placed c m) (next w.last.value (s.placed c m')) ∧
      (s.placed c m').Midway i p a n rest (tr ++ w.events p) :=
  course_poll w hok h fun m' => (exec_placed hi hrunning hq c m').trans (hpoint m')

/-- R140, R142, R172: the tail read at a point of the operation. -/
theorem course_placedRead {c : CmdSt} {o : Offset} {next : Word → State → State}
    (hpoint : ∀ m, (s.placed c m).cellStep op k = .next ((s.placed c m).readRegister o next)) (r : ReadPair)
    (h : (s.placed c m).Midway i p a n (r.answers ++ rest) tr) :
    ∃ m', Course i (r.events o).length (s.placed c m) (next r.value (s.placed c m')) ∧
      (s.placed c m').Midway i p a n rest (tr ++ r.events o) :=
  course_readRegister r h fun m' => (exec_placed hi hrunning hq c m').trans (hpoint m')

include hparams

/-- R144, R172: `writeCell` writes the data register before phase 1, and the other operations go there at once. -/
theorem course_data (h : (s.placed op.afterPrewait m).Midway i p a n rest tr) :
    ∃ m', Course i (if op = .write then writeEvents p.e2pData (dataWord s.curData) else []).length
        (s.placed op.afterPrewait m) (s.placed .issue1 m') ∧
      (s.placed .issue1 m').Midway i p a n rest
        (tr ++ if op = .write then writeEvents p.e2pData (dataWord s.curData) else []) := by
  cases op with
  | write =>
    refine course_placedWrite (c := .data) h fun m' => ?_
    rw [exec_placed hi hrunning hq, ← hparams]
    rfl
  | read | unlock | lock => exact ⟨m, .nil _, by simpa using h.placed .issue1⟩

/-- R122: the two phases of a submission. -/
theorem course_submit (h : (s.placed .issue1 m).Midway i p a n rest tr) :
    ∃ m', Course i (submitEvents p op.cmd (cellAddr s.cell)).length (s.placed .issue1 m) (s.placed .busy m') ∧
      (s.placed .busy m').Midway i p a n rest (tr ++ submitEvents p op.cmd (cellAddr s.cell)) := by
  have phase1 (m : PortSide) : exec i (s.placed .issue1 m) = .next ((s.placed .issue1 m).writeRegister p.e2pCmd
      (cmdWord false op.cmd (cellAddr s.cell)) (State.setCmdst .issue2)) := by
    rw [exec_placed hi hrunning hq, ← hparams]
    rfl
  have phase2 (m : PortSide) : exec i (s.placed .issue2 m) = .next ((s.placed .issue2 m).writeRegister p.e2pCmd
      (cmdWord true op.cmd (cellAddr s.cell)) (State.setCmdst .busy)) := by
    rw [exec_placed hi hrunning hq, ← hparams]
    rfl
  obtain ⟨m₁, hcourse₁, hm₁⟩ := course_placedWrite h phase1
  obtain ⟨m₂, hcourse₂, hm₂⟩ := course_placedWrite hm₁ phase2
  refine ⟨m₂, ?_, ?_⟩
  · rw [submitEvents, List.length_append]
    exact hcourse₁.trans hcourse₂
  · rwa [submitEvents, ← List.append_assoc]

end Points

/-- R125: a cell operation up to the end of its post-wait. -/
theorem course_toTail (hi : Performs i q op k) (r : CellRun) (hok : r.ok = true)
    (h : s.Midway i p a n (r.pre.answers ++ (r.post.answers ++ rest)) tr) (hq : s.seqst = q)
    (hc : s.cmdst = .prewait) :
    ∃ m, Course i (r.eventsToTail p op s.cell s.curData).length s
        (op.afterBusy k r.post.last.value (s.placed .busy m)) ∧
      (s.placed .busy m).Midway i p a n rest (tr ++ r.eventsToTail p op s.cell s.curData) := by
  simp only [CellRun.ok, Bool.and_eq_true] at hok
  obtain ⟨hpre, hpost⟩ := hok
  have hrunning := h.running
  have hparams := h.params
  rw [← State.placed_self hc] at h
  obtain ⟨m₁, hcourse₁, hm₁⟩ := course_placedPoll hi hrunning hq (fun _ => rfl) r.pre hpre h
  obtain ⟨m₂, hcourse₂, hm₂⟩ := course_data hi hrunning hparams hq (hm₁.placed _)
  obtain ⟨m₃, hcourse₃, hm₃⟩ := course_submit hi hrunning hparams hq hm₂
  obtain ⟨m₄, hcourse₄, hm₄⟩ := course_placedPoll hi hrunning hq (fun _ => rfl) r.post hpost hm₃
  rw [State.placed_self hc] at hcourse₁
  refine ⟨m₄, ?_, by simpa only [CellRun.eventsToTail, List.append_assoc] using hm₄⟩
  simpa only [CellRun.eventsToTail, List.length_append, Nat.add_assoc] using
    hcourse₁.trans (hcourse₂.trans (hcourse₃.trans hcourse₄))

/-- R144, R146: a whole `writeCell` or `disableWrite`, which end with their post-wait. -/
theorem course_noTail (hi : Performs i q op k) (hop : op = .write ∨ op = .lock) (r : CellRun) (hok : r.ok = true)
    (h : s.Midway i p a n (r.answers op ++ rest) tr) (hq : s.seqst = q) (hc : s.cmdst = .prewait) :
    ∃ m, Course i (r.events p op s.cell s.curData).length s (k r.post.last.value (s.placed .busy m)) ∧
      (s.placed .busy m).Midway i p a n rest (tr ++ r.events p op s.cell s.curData) := by
  have htail : op.hasTail = false := by rcases hop with rfl | rfl <;> rfl
  have hafter : op.afterBusy k = k := by rcases hop with rfl | rfl <;> rfl
  simp only [CellRun.answers, htail, Bool.false_eq_true, if_false, List.append_nil, List.append_assoc] at h
  simpa only [CellRun.events_eq, htail, hafter, Bool.false_eq_true, if_false, List.append_nil] using
    course_toTail hi r hok h hq hc

/-- R140: a whole `readCell`. -/
theorem course_readCell (hi : Performs i q .read k) (r : CellRun) (hok : r.ok = true)
    (h : s.Midway i p a n (r.answers .read ++ rest) tr) (hq : s.seqst = q) (hc : s.cmdst = .prewait) :
    ∃ m, Course i (r.events p .read s.cell s.curData).length s (k r.tail.value (s.placed .read m)) ∧
      (s.placed .read m).Midway i p a n rest (tr ++ r.events p .read s.cell s.curData) := by
  have hrunning := h.running
  obtain rfl := h.params
  simp only [CellRun.answers, CellOp.hasTail, if_true, List.append_assoc] at h
  obtain ⟨m₁, hcourse₁, hm₁⟩ := course_toTail hi r hok h hq hc
  obtain ⟨m₂, hcourse₂, hm₂⟩ :=
    course_placedRead hi hrunning hq (o := s.params.e2pData) (next := k) (fun _ => rfl) r.tail
      (hm₁.placed .read)
  refine ⟨m₂, ?_, ?_⟩
  · rw [CellRun.events_eq, List.length_append]
    exact hcourse₁.trans hcourse₂
  · rwa [CellRun.events_eq, ← List.append_assoc]

/-- What follows the check whose read returned `v`, in the state `u` with LAST_CMD and TO already written (R124,
R142). -/
def afterCheck (k : Word → State → State) (v : Word) (u : State) : State :=
  if timeoutBit v then (u.setRes v).finish .fatalTimeout else k v u

/-- What follows the check's read (R124). -/
def checkNext (k : Word → State → State) (v : Word) (t : State) : State :=
  if timeoutBit v then (((t.setLastCmd v).setTo true).setRes v).finish .fatalTimeout
  else k v ((t.setLastCmd v).setTo false)

theorem checkNext_eq (k : Word → State → State) (v : Word) (t : State) :
    checkNext k v t = afterCheck k v ((t.setLastCmd v).setTo (timeoutBit v)) := by
  unfold checkNext afterCheck
  split
  next hto => rw [hto]
  next hto => rw [Bool.not_eq_true] at hto; rw [hto]

/-- R142: a whole `enableWrite`; the separate check read decides how it ends. -/
theorem course_unlock (hi : Performs i q .unlock k) (r : CellRun) (hok : r.ok = true)
    (h : s.Midway i p a n (r.answers .unlock ++ rest) tr) (hq : s.seqst = q) (hc : s.cmdst = .prewait) :
    ∃ m, Course i (r.events p .unlock s.cell s.curData).length s
        (afterCheck k r.tail.value ((s.placed .check m).setTo (timeoutBit r.tail.value))) ∧
      (s.placed .check m).Midway i p a n rest (tr ++ r.events p .unlock s.cell s.curData) := by
  have hrunning := h.running
  obtain rfl := h.params
  simp only [CellRun.answers, CellOp.hasTail, if_true, List.append_assoc] at h
  obtain ⟨m₁, hcourse₁, hm₁⟩ := course_toTail hi r hok h hq hc
  obtain ⟨m₂, hcourse₂, hm₂⟩ :=
    course_placedRead hi hrunning hq (o := s.params.e2pCmd) (next := checkNext k) (fun _ => rfl) r.tail
      (hm₁.placed .check)
  refine ⟨m₂.setLastCmd r.tail.value, ?_, ?_⟩
  · rw [CellRun.events_eq, List.length_append]
    rw [checkNext_eq] at hcourse₂
    exact hcourse₁.trans hcourse₂
  · rw [CellRun.events_eq, ← List.append_assoc]
    exact hm₂.setLastCmd _

end CellOps

end Sys2Proof.Machine

/-! PROOFS. What a bus trace submits (43_sequencer.md R164 to R166): the commands, the cell writes and the number of
transactions of a cell operation, a dump and the seven writes. -/

namespace Sys2Proof.Machine

/-! ## The fields of the words the EPB writes (R70, R72, R75) -/

/-- R70, R72: the command word, half by half. -/
theorem cmdWord_eq_halves (busy : Bool) (c : Cmd) (a : Byte) :
    cmdWord busy c a = (BitVec.ofBool busy ++ c.code ++ 0#12) ++ (0#8 ++ a) := by
  have hbusy : (if busy then (1#32 <<< 31) else 0#32) = (BitVec.ofBool busy ++ 0#3 ++ 0#12) ++ (0#8 ++ 0#8) := by
    cases busy <;> rfl
  have hcmd : c.code.setWidth 32 <<< 28 = (0#1 ++ c.code ++ 0#12) ++ (0#8 ++ 0#8) := by cases c <;> rfl
  have haddr : a.setWidth 32 = (0#1 ++ 0#3 ++ 0#12) ++ (0#8 ++ a) := by
    have hzext : (0#16 ++ (0#8 ++ a)).toNat = a.toNat := by
      rw [BitVec.toNat_append, BitVec.toNat_append]
      simp
    exact BitVec.eq_of_toNat_eq ((BitVec.toNat_setWidth_of_le (by decide)).trans hzext.symm)
  rw [cmdWord, hbusy, hcmd, haddr]
  change (BitVec.ofBool busy ++ 0#3 ++ 0#12) ++ (0#8 ++ 0#8) ||| (0#1 ++ c.code ++ 0#12) ++ (0#8 ++ 0#8) |||
    (0#1 ++ 0#3 ++ 0#12) ++ (0#8 ++ a) = _
  simp only [BitVec.or_append, BitVec.or_zero, BitVec.zero_or]

theorem hiHalf_cmdWord (busy : Bool) (c : Cmd) (a : Byte) :
    hiHalf (cmdWord busy c a) = BitVec.ofBool busy ++ c.code ++ 0#12 := by
  rw [cmdWord_eq_halves]
  exact BitVec.extractLsb'_append_eq_left

theorem loHalf_cmdWord (busy : Bool) (c : Cmd) (a : Byte) : loHalf (cmdWord busy c a) = 0#8 ++ a := by
  rw [cmdWord_eq_halves]
  exact BitVec.extractLsb'_append_eq_right

theorem hiHalf_cmdWord_busy (busy : Bool) (c : Cmd) (a : Byte) :
    (hiHalf (cmdWord busy c a)).getLsbD 15 = busy := by
  rw [hiHalf_cmdWord]
  cases busy <;> cases c <;> rfl

theorem hiHalf_cmdWord_cmd (busy : Bool) (c : Cmd) (a : Byte) :
    (hiHalf (cmdWord busy c a)).extractLsb' 12 3 = c.code := by
  rw [hiHalf_cmdWord, BitVec.extractLsb'_append_eq_of_le (by decide)]
  exact BitVec.extractLsb'_append_eq_right

theorem loHalf_cmdWord_addr (busy : Bool) (c : Cmd) (a : Byte) :
    (loHalf (cmdWord busy c a)).extractLsb' 0 8 = a := by
  rw [loHalf_cmdWord]
  exact BitVec.extractLsb'_append_eq_right

theorem loHalf_dataWord_byte (b : Byte) : (loHalf (dataWord b)).extractLsb' 0 8 = b := by
  rw [loHalf, dataWord, BitVec.extractLsb'_setWidth_of_le (by decide)]
  ext j hj
  simp
/-! ## The four registers' halves are apart (R10) -/

theorem high_ne_low (o : Offset) : o + 2 ≠ o := by bv_omega

section Apart

variable {p : Params} (h : p.valid = true)

include h

theorem e2pCmd_apart_e2pData : p.e2pData ≠ p.e2pCmd ∧ p.e2pData ≠ p.e2pCmd + 2 ∧ p.e2pData + 2 ≠ p.e2pCmd ∧
    p.e2pData + 2 ≠ p.e2pCmd + 2 := by
  simp only [Params.valid, Params.offsetOk, Params.apart, Bool.and_eq_true, Bool.or_eq_true, decide_eq_true_eq] at h
  refine ⟨?_, ?_, ?_, ?_⟩ <;> bv_omega

/-! ## Reading a trace block by block -/

theorem submitsFrom_data (lo : Half) (v : Word) (rest : List BusEvent) :
    submitsFrom p lo (writeEvents p.e2pData v ++ rest) = submitsFrom p lo rest := by
  obtain ⟨hlo, hlo', hhi, hhi'⟩ := e2pCmd_apart_e2pData h
  simp only [writeEvents, submitsFrom, List.cons_append, List.nil_append, hlo, hlo', hhi, hhi', false_and,
    if_false]

theorem cellWritesFrom_data (lo d : Half) (v : Word) (rest : List BusEvent) :
    cellWritesFrom p lo d (writeEvents p.e2pData v ++ rest) = cellWritesFrom p lo (loHalf v) rest := by
  obtain ⟨hlo, hlo', hhi, hhi'⟩ := e2pCmd_apart_e2pData h
  simp only [writeEvents, cellWritesFrom, List.cons_append, List.nil_append, hlo, hhi, hhi', false_and, if_false, if_true,
    high_ne_low]

theorem cellWritesFrom_submit (lo d : Half) (c : Cmd) (a : Byte) (rest : List BusEvent) :
    cellWritesFrom p lo d (submitEvents p c a ++ rest) =
      (if c = .write then [(a, d.extractLsb' 0 8)] else []) ++
        cellWritesFrom p (loHalf (cmdWord true c a)) d rest := by
  obtain ⟨hlo, hlo', hhi, hhi'⟩ := e2pCmd_apart_e2pData h
  have hcode : c.code = Cmd.write.code ↔ c = .write := by cases c <;> decide
  simp only [submitEvents, writeEvents, cellWritesFrom, List.cons_append, List.nil_append, if_true, high_ne_low, if_false,
    hlo'.symm, hiHalf_cmdWord_busy, hiHalf_cmdWord_cmd, loHalf_cmdWord_addr, hcode, Bool.false_eq_true, false_and,
    and_false, true_and]
  split <;> rfl

end Apart

theorem submitsFrom_submit (p : Params) (lo : Half) (c : Cmd) (a : Byte) (rest : List BusEvent) :
    submitsFrom p lo (submitEvents p c a ++ rest) = (c, a) :: submitsFrom p (loHalf (cmdWord true c a)) rest := by
  simp only [submitEvents, writeEvents, submitsFrom, List.cons_append, List.nil_append, if_true, high_ne_low, if_false,
    hiHalf_cmdWord_busy, hiHalf_cmdWord_cmd, loHalf_cmdWord_addr, Cmd.ofCode_code,
    Bool.false_eq_true, and_false, and_true]

/-- Reading `es` yields `xs` and goes on with what follows: `f` is `submitsFrom` or `cellWritesFrom`, with the words it
carries along as its state. -/
def Yields {σ α : Type} (f : σ → List BusEvent → List α) (es : List BusEvent) (xs : List α) : Prop :=
  ∀ (st : σ) (rest : List BusEvent), ∃ st', f st (es ++ rest) = xs ++ f st' rest

theorem Yields.nil {σ α : Type} (f : σ → List BusEvent → List α) : Yields f [] [] := fun st _ => ⟨st, rfl⟩

theorem Yields.append {σ α : Type} {f : σ → List BusEvent → List α} {es es' : List BusEvent} {xs xs' : List α}
    (h : Yields f es xs) (h' : Yields f es' xs') : Yields f (es ++ es') (xs ++ xs') := by
  intro st rest
  obtain ⟨st₁, h₁⟩ := h st (es' ++ rest)
  obtain ⟨st₂, h₂⟩ := h' st₁ rest
  exact ⟨st₂, by rw [List.append_assoc, h₁, h₂, List.append_assoc]⟩

/-- `cellWritesFrom` with the two words it carries along as one state. -/
def cellWritesOf (p : Params) (st : Half × Half) (es : List BusEvent) : List (Byte × Byte) :=
  cellWritesFrom p st.1 st.2 es

/-- What a stretch of a bus trace holds: so many transactions, so many of them writes, the commands it submits and the
cell writes among them. -/
structure Accounts (p : Params) (es : List BusEvent) (transactions writes : Nat) (cmds : List (Cmd × Byte))
    (cells : List (Byte × Byte)) : Prop where
  length : es.length = transactions
  writes : (es.filter BusEvent.isWrite).length = writes
  commands : Yields (submitsFrom p) es cmds
  cellBytes : Yields (cellWritesOf p) es cells

theorem Accounts.nil (p : Params) : Accounts p [] 0 0 [] [] := ⟨rfl, rfl, .nil _, .nil _⟩

section Accounts

variable {p : Params} {es es' : List BusEvent} {m m' w w' : Nat} {cmds cmds' : List (Cmd × Byte)}
  {cells cells' : List (Byte × Byte)}

theorem Accounts.append (h : Accounts p es m w cmds cells) (h' : Accounts p es' m' w' cmds' cells') :
    Accounts p (es ++ es') (m + m') (w + w') (cmds ++ cmds') (cells ++ cells') where
  length := by rw [List.length_append, h.length, h'.length]
  writes := by rw [List.filter_append, List.length_append, h.writes, h'.writes]
  commands := h.commands.append h'.commands
  cellBytes := h.cellBytes.append h'.cellBytes

theorem Accounts.submits_eq (h : Accounts p es m w cmds cells) : submits p es = cmds := by
  obtain ⟨st, hst⟩ := h.commands 0 []
  simpa [submitsFrom, submits] using hst

theorem Accounts.cellWrites_eq (h : Accounts p es m w cmds cells) : cellWrites p es = cells := by
  obtain ⟨st, hst⟩ := h.cellBytes (0, 0) []
  simpa [cellWritesOf, cellWritesFrom, cellWrites] using hst

/-- A register read submits nothing. -/
theorem ReadPair.accounts (p : Params) (o : Offset) (r : ReadPair) : Accounts p (r.events o) 2 0 [] [] :=
  ⟨rfl, rfl, fun st _ => ⟨st, rfl⟩, fun st _ => ⟨st, rfl⟩⟩

theorem polls_accounts (p : Params) (o : Offset) (rs : List ReadPair) :
    Accounts p (rs.flatMap (ReadPair.events o)) (2 * rs.length) 0 [] [] := by
  induction rs with
  | nil => exact .nil p
  | cons r rs ih => simpa [Nat.mul_add, Nat.add_comm] using (r.accounts p o).append ih

theorem Wait.accounts (p : Params) (w : Wait) : Accounts p (w.events p) (2 * w.count) 0 [] [] := by
  simpa [Wait.events, Wait.polls, Wait.count] using polls_accounts p p.e2pCmd w.polls

/-- R122, R123: the two phases submit one command. -/
theorem submit_accounts (h : p.valid = true) {op : CellOp} (hop : op ≠ .write) (a : Byte) :
    Accounts p (submitEvents p op.cmd a) 4 4 [(op.cmd, a)] [] := by
  have hcmd : op.cmd ≠ .write := by cases op <;> simp_all [CellOp.cmd]
  refine ⟨rfl, rfl, fun lo rest => ⟨_, submitsFrom_submit p lo op.cmd a rest⟩,
    fun st rest => ⟨(loHalf (cmdWord true op.cmd a), st.2), ?_⟩⟩
  exact (cellWritesFrom_submit h st.1 st.2 op.cmd a rest).trans (by rw [if_neg hcmd]; rfl)

/-- R144, R164: the data write and the two phases of WRITE write the byte to the cell. -/
theorem submitWrite_accounts (h : p.valid = true) (a b : Byte) :
    Accounts p (writeEvents p.e2pData (dataWord b) ++ submitEvents p .write a) 6 6 [(.write, a)] [(a, b)] := by
  refine ⟨rfl, rfl, fun lo rest => ⟨loHalf (cmdWord true .write a), ?_⟩,
    fun st rest => ⟨(loHalf (cmdWord true .write a), loHalf (dataWord b)), ?_⟩⟩
  · rw [List.append_assoc, submitsFrom_data h, submitsFrom_submit]
    rfl
  · unfold cellWritesOf
    rw [List.append_assoc, cellWritesFrom_data h, cellWritesFrom_submit h, if_pos rfl, loHalf_dataWord_byte]

/-- The number of writes of a cell operation (R125): 4 half-words of the command, and 2 of the data. -/
def CellOp.writeCount (op : CellOp) : Nat := if op = .write then 6 else 4

/-- R125, R140 to R146: a cell operation submits its own command, and `writeCell` alone writes a cell. -/
theorem CellRun.accounts (h : p.valid = true) (op : CellOp) (c : CellIx) (b : Byte) (r : CellRun) :
    Accounts p (r.events p op c b) (r.transactions op) op.writeCount [(op.cmd, cellAddr c)]
      (if op = .write then [(cellAddr c, b)] else []) := by
  have hcommand : Accounts p ((if op = .write then writeEvents p.e2pData (dataWord b) else []) ++
      submitEvents p op.cmd (cellAddr c)) (4 + if op = .write then 2 else 0) op.writeCount [(op.cmd, cellAddr c)]
      (if op = .write then [(cellAddr c, b)] else []) := by
    by_cases hop : op = .write
    · subst hop
      exact submitWrite_accounts h _ _
    · simpa [hop, CellOp.writeCount] using submit_accounts h hop (cellAddr c)
  have htail : Accounts p (if op.hasTail then r.tail.events (op.tailOff p) else []) (if op.hasTail then 2 else 0) 0
      [] [] := by
    split
    · exact r.tail.accounts p _
    · exact .nil p
  have hall := (((r.pre.accounts p).append hcommand).append (r.post.accounts p)).append htail
  have htransactions : r.transactions op = 2 * r.pre.count + (4 + if op = .write then 2 else 0) + 2 * r.post.count +
      if op.hasTail then 2 else 0 := by
    simp only [CellRun.transactions]
    omega
  rw [htransactions]
  simpa [CellRun.events, List.append_assoc] using hall

/-- The transactions of a cell operation beside its polls (R125, R166). -/
def CellOp.ownTransactions : CellOp → Nat
  | .read => 6
  | .unlock => 6
  | .write => 6
  | .lock => 4

theorem CellRun.transactions_eq (op : CellOp) (r : CellRun) :
    r.transactions op = op.ownTransactions + 2 * r.polls := by
  cases op with
  | read | unlock | write | lock =>
    simp only [CellRun.transactions, CellRun.polls, CellOp.ownTransactions, CellOp.hasTail, reduceCtorEq,
      Bool.false_eq_true, if_true, if_false]
    omega

theorem runPolls_cons (r : CellRun) (rs : List CellRun) : runPolls (r :: rs) = r.polls + runPolls rs := by
  simp [runPolls]

/-- R160: the commands of a dump from cell `c` on. -/
def readsFrom (c n : Nat) : List (Cmd × Byte) :=
  (List.range' c n).map fun c => (.read, cellAddr (BitVec.ofNat 5 c))

/-- R160, R166: a dump, cell by cell. -/
theorem dump_accounts (h : p.valid = true) (rs : List CellRun) (c : Nat) :
    Accounts p (dumpEvents p c rs) (6 * rs.length + 2 * runPolls rs) (4 * rs.length) (readsFrom c rs.length) [] := by
  induction rs generalizing c with
  | nil => exact .nil p
  | cons r rs ih =>
    have hall := (r.accounts h .read (BitVec.ofNat 5 c) 0).append (ih (c + 1))
    have htransactions : 6 * (r :: rs).length + 2 * runPolls (r :: rs) =
        r.transactions .read + (6 * rs.length + 2 * runPolls rs) := by
      rw [CellRun.transactions_eq, runPolls_cons, List.length_cons, CellOp.ownTransactions]
      omega
    rw [htransactions]
    simpa [dumpEvents, readsFrom, List.range'_succ, CellOp.writeCount, CellOp.cmd, Nat.mul_add, Nat.add_comm] using hall

/-- R162: the commands of step 3 from cell `c` on. -/
def writesFrom (c n : Nat) : List (Cmd × Byte) :=
  (List.range' c n).map fun c => (.write, cellAddr (BitVec.ofNat 5 c))

/-- R162: the cell writes of step 3 from cell `c` on. -/
def cellWritesAt (c : Nat) (bs : List Byte) : List (Byte × Byte) :=
  (bs.zipIdx c).map fun x => (cellAddr (BitVec.ofNat 5 x.2), x.1)

/-- R162, R166: step 3, cell by cell. -/
theorem writes_accounts (h : p.valid = true) (rs : List CellRun) (bs : List Byte) (c : Nat)
    (hlen : bs.length = rs.length) :
    Accounts p (writesEvents p c bs rs) (6 * rs.length + 2 * runPolls rs) (6 * rs.length) (writesFrom c rs.length)
      (cellWritesAt c bs) := by
  induction rs generalizing c bs with
  | nil =>
    obtain rfl := List.length_eq_zero_iff.mp hlen
    exact .nil p
  | cons r rs ih =>
    obtain ⟨b, bs, rfl⟩ := List.exists_cons_of_length_eq_add_one hlen
    have hall := (r.accounts h .write (BitVec.ofNat 5 c) b).append (ih bs (c + 1) (by simpa using hlen))
    have htransactions : 6 * (r :: rs).length + 2 * runPolls (r :: rs) =
        r.transactions .write + (6 * rs.length + 2 * runPolls rs) := by
      rw [CellRun.transactions_eq, runPolls_cons, List.length_cons, CellOp.ownTransactions]
      omega
    rw [htransactions]
    simpa [writesEvents, writesFrom, cellWritesAt, List.range'_succ, CellOp.writeCount, CellOp.cmd, Nat.mul_add,
      Nat.add_comm] using hall

/-! ## PROGRAM_ADDRESS (R164 to R166) -/

theorem ProgramRun.lengths {r : ProgramRun} (h : r.ok = true) :
    r.pre.length = 32 ∧ r.writes.length = 7 ∧ r.post.length = 32 := by
  simp only [ProgramRun.ok, Bool.and_eq_true, decide_eq_true_eq] at h
  obtain ⟨⟨⟨⟨⟨⟨⟨hpre, hwrites⟩, hpost⟩, -⟩, -⟩, -⟩, -⟩, -⟩ := h
  exact ⟨hpre, hwrites, hpost⟩

/-- R165, R166: steps 1 and 2. -/
theorem ProgramRun.accounts_toUnlock (h : p.valid = true) {r : ProgramRun} (hok : r.ok = true) :
    Accounts p (r.eventsToUnlock p) (198 + 2 * r.pollsToUnlock) 132 (dumpSubmits ++ [(.ewen, 0)]) [] := by
  obtain ⟨hpre, -, -⟩ := ProgramRun.lengths hok
  have hall := (dump_accounts h r.pre 0).append (r.unlock.accounts h .unlock 0 0)
  have htransactions : 6 * 32 + 2 * runPolls r.pre + r.unlock.transactions .unlock = 198 + 2 * r.pollsToUnlock := by
    rw [CellRun.transactions_eq, CellOp.ownTransactions, ProgramRun.pollsToUnlock]
    omega
  rw [hpre, htransactions] at hall
  exact hall

theorem cellWritesAt_programBytes (m : Vector Byte 6) : cellWritesAt 0 (programBytes m) = programCellWrites m := by
  obtain ⟨⟨l⟩, hl⟩ := m
  match l, hl with
  | [_, _, _, _, _, _], _ => rfl

/-- R164, R166: all five steps. -/
theorem ProgramRun.accounts (h : p.valid = true) {r : ProgramRun} (hok : r.ok = true) (m : Vector Byte 6) :
    Accounts p (r.events p m) (436 + 2 * r.polls) 306 programSubmits (programCellWrites m) := by
  obtain ⟨-, hwrites, hpost⟩ := ProgramRun.lengths hok
  have hbytes : (programBytes m).length = r.writes.length := by simp [programBytes, hwrites]
  have hall := (((ProgramRun.accounts_toUnlock h hok).append (writes_accounts h r.writes _ 0 hbytes)).append
    (r.lock.accounts h .lock 0 0)).append (dump_accounts h r.post 0)
  have htransactions : 198 + 2 * r.pollsToUnlock + (6 * 7 + 2 * runPolls r.writes) + r.lock.transactions .lock +
      (6 * 32 + 2 * runPolls r.post) = 436 + 2 * r.polls := by
    rw [CellRun.transactions_eq, CellOp.ownTransactions, ProgramRun.polls]
    omega
  rw [hwrites, hpost, htransactions, cellWritesAt_programBytes, List.nil_append] at hall
  simp only [reduceCtorEq, if_false, List.append_nil] at hall
  exact hall

/-- R121: every wait takes an iteration at least. -/
theorem two_le_polls (r : CellRun) : 2 ≤ r.polls := by
  simp only [CellRun.polls, Wait.count]
  omega

theorem two_mul_length_le_runPolls (rs : List CellRun) : 2 * rs.length ≤ runPolls rs := by
  induction rs with
  | nil => exact Nat.le_refl 0
  | cons r rs ih =>
    have := two_le_polls r
    rw [runPolls_cons, List.length_cons]
    omega

theorem ProgramRun.polls_toUnlock_ge {r : ProgramRun} (hok : r.ok = true) : 66 ≤ r.pollsToUnlock := by
  obtain ⟨hpre, -, -⟩ := ProgramRun.lengths hok
  have := two_mul_length_le_runPolls r.pre
  have := two_le_polls r.unlock
  unfold ProgramRun.pollsToUnlock
  omega

theorem ProgramRun.polls_ge {r : ProgramRun} (hok : r.ok = true) : 146 ≤ r.polls := by
  obtain ⟨-, hwrites, hpost⟩ := ProgramRun.lengths hok
  have := ProgramRun.polls_toUnlock_ge hok
  have := two_mul_length_le_runPolls r.writes
  have := two_le_polls r.lock
  have := two_mul_length_le_runPolls r.post
  unfold ProgramRun.polls
  omega

end Accounts

end Sys2Proof.Machine

/-! PROOFS. The sequencer against a live device (43_sequencer.md R160 to R166): the course of a dump, of the seven writes
and of PROGRAM_ADDRESS, phase by phase. -/

namespace Sys2Proof.Machine

/-! ## The two images (R27) -/

inductive Image where
  | pre | post

def Image.get : Image → State → Vector Byte 32
  | .pre, s => s.preImg
  | .post, s => s.postImg

def Image.set : Image → CellIx → Byte → State → State
  | .pre => State.setPre
  | .post => State.setPost

theorem Image.get_set (im : Image) (c : CellIx) (b : Byte) (s : State) :
    im.get (im.set c b s) = (im.get s).set c.toNat b c.isLt := by
  cases im <;> rfl

theorem Image.get_set_of_ne {im im' : Image} (h : im' ≠ im) (c : CellIx) (b : Byte) (s : State) :
    im'.get (im.set c b s) = im'.get s := by
  cases im with
  | pre =>
    cases im' with
    | pre => exact absurd rfl h
    | post => rfl
  | post =>
    cases im' with
    | pre => rfl
    | post => exact absurd rfl h

@[simp] theorem Image.get_placed (im : Image) (c : CmdSt) (m : PortSide) (s : State) :
    im.get (s.placed c m) = im.get s := by
  cases im <;> rfl

@[simp] theorem Image.get_startSeqCell (im : Image) (op : CellOp) (c : CellIx) (s : State) :
    im.get (s.startSeqCell op c) = im.get s := by
  cases im <;> simp [Image.get]

theorem Image.sameMidway_set (im : Image) (c : CellIx) (b : Byte) (s : State) : s.sameMidway (im.set c b s) := by
  cases im <;> simp [Image.set, State.sameMidway]

theorem Image.set_seqst (im : Image) (c : CellIx) (b : Byte) (s : State) : (im.set c b s).seqst = s.seqst := by
  cases im <;> rfl

/-- The cells up to `c`, after `c` is written. -/
theorem take_succ_set (img : Vector Byte 32) {c : Nat} (h : c < 32) (b : Byte) :
    (img.set c b h).toList.take (c + 1) = img.toList.take c ++ [b] := by
  have hlen : c < (img.toList.set c b).length := by simpa using h
  rw [Vector.toList_set, List.take_succ_eq_append_getElem hlen, List.take_set_of_le (Nat.le_refl c),
    List.getElem_set_self]

/-! ## A dump (R160) -/

theorem CellRun.events_of_ne_write {op : CellOp} (h : op ≠ .write) (p : Params) (c : CellIx) (b b' : Byte)
    (r : CellRun) :
    r.events p op c b = r.events p op c b' := by
  simp [CellRun.events, h]

section Phases

variable {i : Instr} {q : SeqSt} {p : Params} {a : Vector Byte 6} {n : Nat} {rest : List Half} {tr : List BusEvent}
  {s : State}

/-- R160: cell `c` of a dump: its byte goes to the image, and the next cell or `k` follows. -/
theorem course_dumpCell (im : Image) {k : State → State} (hi : Performs i q .read (dumpNext im.set k)) (r : CellRun)
    (hok : r.ok = true) (h : s.Midway i p a n (r.answers .read ++ rest) tr) (hq : s.seqst = q)
    (hpoint : s.cmdst = .prewait) {c : Nat} (hc : c < 32) (hcell : s.cell = BitVec.ofNat 5 c) :
    ∃ u, Course i (r.events p .read (BitVec.ofNat 5 c) 0).length s
        (if c = 31 then k u else u.startSeqCell .read (BitVec.ofNat 5 (c + 1))) ∧
      u.Midway i p a n rest (tr ++ r.events p .read (BitVec.ofNat 5 c) 0) ∧ u.seqst = q ∧
      (im.get u).toList.take (c + 1) = (im.get s).toList.take c ++ [r.byte] ∧ ∀ im' ≠ im, im'.get u = im'.get s := by
  obtain ⟨m, hcourse, hm⟩ := course_readCell hi r hok h hq hpoint
  rw [CellRun.events_of_ne_write (by decide) p s.cell s.curData 0 r, hcell] at hcourse hm
  have hnat : s.cell.toNat = c := by simp [hcell, Nat.mod_eq_of_lt hc]
  have hlast : s.cell = 31 ↔ c = 31 := by rw [← hnat]; bv_omega
  have hsucc : s.cell + 1 = BitVec.ofNat 5 (c + 1) := by rw [hcell]; exact (BitVec.ofNat_add c 1).symm
  let u := im.set s.cell r.byte (s.placed .read m)
  have hnext : dumpNext im.set k r.tail.value (s.placed .read m) =
      if c = 31 then k u else u.startSeqCell .read (BitVec.ofNat 5 (c + 1)) := by
    rw [← hsucc]
    exact if_congr hlast rfl rfl
  rw [hnext] at hcourse
  refine ⟨u, hcourse, hm.of_same (im.sameMidway_set _ _ _), (im.set_seqst _ _ _).trans hq, ?_, fun im' hne => ?_⟩
  · rw [im.get_set, im.get_placed]
    simp only [hnat]
    exact take_succ_set _ hc _
  · rw [Image.get_set_of_ne hne, im'.get_placed]

/-- R160: a dump from cell `c` on. -/
theorem course_dump (im : Image) {k : State → State} (hi : Performs i q .read (dumpNext im.set k)) (r : CellRun)
    (rs : List CellRun) {c : Nat} {tr : List BusEvent} {s : State} (hlen : c + (r :: rs).length = 32)
    (hok : (r :: rs).all CellRun.ok = true)
    (h : s.Midway i p a n (dumpAnswers (r :: rs) ++ rest) tr) (hq : s.seqst = q) (hpoint : s.cmdst = .prewait)
    (hcell : s.cell = BitVec.ofNat 5 c) :
    ∃ u, Course i (dumpEvents p c (r :: rs)).length s (k u) ∧
      u.Midway i p a n rest (tr ++ dumpEvents p c (r :: rs)) ∧
      (im.get u).toList = (im.get s).toList.take c ++ dumpImage (r :: rs) ∧ ∀ im' ≠ im, im'.get u = im'.get s := by
  rw [List.all_cons, Bool.and_eq_true] at hok
  obtain ⟨hr, hrs⟩ := hok
  rw [dumpAnswers, List.flatMap_cons, List.append_assoc] at h
  have hc : c < 32 := by simp only [List.length_cons] at hlen; omega
  obtain ⟨u, hcourse, hu, huq, himg, hother⟩ := course_dumpCell im hi r hr h hq hpoint hc hcell
  rw [dumpEvents]
  cases rs with
  | nil =>
    obtain rfl : c = 31 := by simpa using hlen
    rw [if_pos rfl] at hcourse
    rw [List.take_of_length_le (by simp)] at himg
    exact ⟨u, by simpa [dumpEvents] using hcourse, by simpa [dumpEvents] using hu, himg, hother⟩
  | cons r' rs =>
    rw [if_neg (by simp only [List.length_cons] at hlen; omega)] at hcourse
    have hstart : (u.startSeqCell .read (BitVec.ofNat 5 (c + 1))).Midway i p a n (dumpAnswers (r' :: rs) ++ rest)
        (tr ++ r.events p .read (BitVec.ofNat 5 c) 0) :=
      hu.of_same (by simp [State.sameMidway])
    obtain ⟨v, hcourse', hv, himg', hother'⟩ :=
      course_dump im hi r' rs (c := c + 1) (by simp only [List.length_cons] at hlen ⊢; omega) hrs hstart
        (by simpa using huq) (by simp) (by simp)
    refine ⟨v, ?_, by rwa [← List.append_assoc], ?_, fun im' hne => ?_⟩
    · rw [List.length_append]
      exact hcourse.trans hcourse'
    · rw [himg', im.get_startSeqCell, himg]
      simp [dumpImage]
    · rw [hother' im' hne, im'.get_startSeqCell, hother im' hne]
termination_by rs.length

/-- R160: a whole dump. -/
theorem course_wholeDump (im : Image) {k : State → State} (hi : Performs i q .read (dumpNext im.set k))
    {rs : List CellRun} (hlen : rs.length = 32) (hok : rs.all CellRun.ok = true)
    (h : s.Midway i p a n (dumpAnswers rs ++ rest) tr) (hq : s.seqst = q) (hpoint : s.cmdst = .prewait)
    (hcell : s.cell = 0) :
    ∃ u, Course i (dumpEvents p 0 rs).length s (k u) ∧ u.Midway i p a n rest (tr ++ dumpEvents p 0 rs) ∧
      (im.get u).toList = dumpImage rs ∧ ∀ im' ≠ im, im'.get u = im'.get s := by
  obtain ⟨r, rs, rfl⟩ := List.exists_cons_of_length_eq_add_one hlen
  exact course_dump im hi r rs (by simpa using hlen) hok h hq hpoint hcell

/-! ## The seven writes (R162, step 3) -/

theorem programBytes_succ (m : Vector Byte 6) {j : Nat} (h : j < 6) :
    (programBytes m)[j + 1]? = some (macByte m j) := by
  simp [programBytes, macByte, h]

/-- R162: cell `c` of step 3: the next cell with its byte of the address, or step 4, follows. -/
theorem course_writeCell (hi : Performs i .write .write (fun _ u => writeNext u)) (r : CellRun) (hok : r.ok = true)
    (h : s.Midway i p a n (r.answers .write ++ rest) tr) (hq : s.seqst = .write) (hpoint : s.cmdst = .prewait) {c : Nat}
    (hc : c < 7) (hcell : s.cell = BitVec.ofNat 5 c) :
    ∃ u : State, Course i (r.events p .write (BitVec.ofNat 5 c) s.curData).length s
        (if c < 6 then u.startSeqWrite (BitVec.ofNat 5 (c + 1)) (macByte a c)
          else (u.setSeqst .lock).startCell .lock 0) ∧
      u.Midway i p a n rest (tr ++ r.events p .write (BitVec.ofNat 5 c) s.curData) ∧ u.seqst = .write := by
  obtain ⟨m, hcourse, hm⟩ := course_noTail hi (.inl rfl) r hok h hq hpoint
  have hnat : s.cell.toNat = c := by rw [hcell]; exact Nat.mod_eq_of_lt (by omega)
  have hsucc : s.cell + 1 = BitVec.ofNat 5 (c + 1) := by rw [hcell]; exact (BitVec.ofNat_add c 1).symm
  have hnext : writeNext (s.placed .busy m) =
      if c < 6 then (s.placed .busy m).startSeqWrite (BitVec.ofNat 5 (c + 1)) (macByte a c)
        else ((s.placed .busy m).setSeqst .lock).startCell .lock 0 := by
    rw [← hsucc, ← hnat, ← h.curMac]
    rfl
  rw [hcell] at hcourse hm
  rw [hnext] at hcourse
  exact ⟨_, hcourse, hm, hq⟩

/-- R162: step 3 from cell `c` on, CUR_DATA holding the cell's byte. -/
theorem course_writes (hi : Performs i .write .write (fun _ u => writeNext u)) (r : CellRun) (rs : List CellRun)
    {c : Nat} {tr : List BusEvent} {s : State}
    (hlen : c + (r :: rs).length = 7) (hok : (r :: rs).all CellRun.ok = true)
    (h : s.Midway i p a n ((r :: rs).flatMap (CellRun.answers .write) ++ rest) tr) (hq : s.seqst = .write)
    (hpoint : s.cmdst = .prewait) (hcell : s.cell = BitVec.ofNat 5 c) (hdata : (programBytes a)[c]? = some s.curData) :
    ∃ u : State, Course i (writesEvents p c ((programBytes a).drop c) (r :: rs)).length s
        ((u.setSeqst .lock).startCell .lock 0) ∧
      u.Midway i p a n rest (tr ++ writesEvents p c ((programBytes a).drop c) (r :: rs)) := by
  have hdrop : (programBytes a).drop c = s.curData :: (programBytes a).drop (c + 1) := by
    obtain ⟨hlt, hget⟩ := List.getElem?_eq_some_iff.mp hdata
    rw [List.drop_eq_getElem_cons hlt, hget]
  rw [hdrop, writesEvents]
  rw [List.all_cons, Bool.and_eq_true] at hok
  obtain ⟨hr, hrs⟩ := hok
  rw [List.flatMap_cons, List.append_assoc] at h
  have hc : c < 7 := by simp only [List.length_cons] at hlen; omega
  obtain ⟨u, hcourse, hu, huq⟩ := course_writeCell hi r hr h hq hpoint hc hcell
  cases rs with
  | nil =>
    obtain rfl : c = 6 := by simpa using hlen
    rw [if_neg (by decide)] at hcourse
    exact ⟨u, by simpa [writesEvents] using hcourse, by simpa [writesEvents] using hu⟩
  | cons r' rs =>
    have hc' : c < 6 := by simp only [List.length_cons] at hlen; omega
    rw [if_pos hc'] at hcourse
    have hstart : (u.startSeqWrite (BitVec.ofNat 5 (c + 1)) (macByte a c)).Midway i p a n
        ((r' :: rs).flatMap (CellRun.answers .write) ++ rest)
        (tr ++ r.events p .write (BitVec.ofNat 5 c) s.curData) :=
      hu.of_same (by simp [State.sameMidway])
    obtain ⟨v, hcourse', hv⟩ :=
      course_writes hi r' rs (c := c + 1) (by simp only [List.length_cons] at hlen ⊢; omega) hrs hstart
        (by simpa using huq) (by simp) (by simp) (by simpa using programBytes_succ a hc')
    refine ⟨v, ?_, by rwa [← List.append_assoc]⟩
    rw [List.length_append]
    exact hcourse.trans hcourse'
termination_by rs.length

end Phases

/-! ## PROGRAM_ADDRESS (R162, R163) -/

/-- What follows step 1 (R162). -/
def afterDumpPre (u : State) : State := (u.setSeqst .unlock).startCell .unlock 0

/-- What follows the check of step 2 that saw no TIMEOUT (R162). -/
def afterUnlock (u : State) : State := (u.setSeqst .write).startSeqWrite 0 Config.magic

/-- What follows step 4 (R162). -/
def afterLock (u : State) : State := (u.setSeqst .dumpPost).startSeqCell .read 0

section Program

theorem performs_of_programStep {q : SeqSt} {op : CellOp} {k : Word → State → State}
    (h : ∀ s : State, s.seqst = q → programStep s = s.cellStep op k) : Performs .programAddress q op k :=
  fun s hs hq => (exec_programAddress_running hs).trans (h s hq)

theorem performs_dumpPre : Performs .programAddress .dumpPre .read (dumpNext Image.pre.set afterDumpPre) :=
  performs_of_programStep fun s hq => by unfold programStep; rw [hq]; rfl

theorem performs_unlock : Performs .programAddress .unlock .unlock (fun _ => afterUnlock) :=
  performs_of_programStep fun s hq => by unfold programStep; rw [hq]; rfl

theorem performs_write : Performs .programAddress .write .write (fun _ u => writeNext u) :=
  performs_of_programStep fun s hq => by unfold programStep; rw [hq]

theorem performs_lock : Performs .programAddress .lock .lock (fun _ => afterLock) :=
  performs_of_programStep fun s hq => by unfold programStep; rw [hq]; rfl

theorem performs_dumpPost :
    Performs .programAddress .dumpPost .read (dumpNext Image.post.set (fun u => u.finishOk 0)) :=
  performs_of_programStep fun s hq => by unfold programStep; rw [hq]; rfl

/-- R163, R168: the state that acceptance leaves. -/
def startProgram (s : State) : State :=
  ((s.accept .hn (encode .programAddress)).setSeqst .dumpPre).startSeqCell .read 0

theorem exec_programAddress_accept {s : State} (h : s.ready = true) :
    exec .programAddress s = .next (startProgram s) := by
  simp only [exec, execProgramAddress]
  exact State.runRequest_ready _ _ _ _ h

theorem ProgramRun.cells_ok {r : ProgramRun} (h : r.ok = true) :
    r.pre.all CellRun.ok = true ∧ r.unlock.ok = true ∧ r.writes.all CellRun.ok = true ∧ r.lock.ok = true ∧
      r.post.all CellRun.ok = true := by
  simp only [ProgramRun.ok, Bool.and_eq_true] at h
  obtain ⟨⟨⟨⟨⟨-, hpre⟩, hunlock⟩, hwrites⟩, hlock⟩, hpost⟩ := h
  exact ⟨hpre, hunlock, hwrites, hlock, hpost⟩

variable {s : State} {r : ProgramRun} {rest : List Half} {n : Nat}

theorem startProgram_midway (hhalted : s.halted = false) (hdevice : s.device = liveDevice rest n) :
    (startProgram s).Midway .programAddress s.params s.argMac n rest s.trace where
  running := by simp [startProgram, State.running, hhalted]
  params := by simp [startProgram]
  curMac := by simp [startProgram]
  half := by simp [startProgram]
  device := by simp [startProgram, hdevice]
  trace := by simp [startProgram]

/-- R162: steps 1 and 2, from acceptance to the check. -/
theorem course_toCheck (hhalted : s.halted = false) (hok : r.ok = true)
    (hdevice : s.device = liveDevice (r.answersToUnlock ++ rest) n) :
    ∃ u : State, Course .programAddress (r.eventsToUnlock s.params).length (startProgram s)
        (afterCheck (fun _ => afterUnlock) r.unlock.tail.value u) ∧
      u.Midway .programAddress s.params s.argMac n rest (s.trace ++ r.eventsToUnlock s.params) ∧
      u.preImg.toList = dumpImage r.pre ∧ u.postImg = s.postImg := by
  obtain ⟨hlen, -, -⟩ := ProgramRun.lengths hok
  obtain ⟨hpre, hunlock, -, -, -⟩ := ProgramRun.cells_ok hok
  rw [ProgramRun.answersToUnlock, List.append_assoc] at hdevice
  obtain ⟨u, hcourse, hu, himg, hother⟩ :=
    course_wholeDump .pre performs_dumpPre hlen hpre (startProgram_midway hhalted hdevice) (by simp [startProgram])
      (by simp [startProgram]) (by simp [startProgram])
  have hstart : (afterDumpPre u).Midway .programAddress s.params s.argMac n (r.unlock.answers .unlock ++ rest)
      (s.trace ++ dumpEvents s.params 0 r.pre) :=
    hu.of_same (by simp [afterDumpPre, State.sameMidway])
  obtain ⟨m, hcourse', hm⟩ :=
    course_unlock performs_unlock r.unlock hunlock hstart (by simp [afterDumpPre]) (by simp [afterDumpPre])
  have hcell : (afterDumpPre u).cell = 0 := by simp [afterDumpPre]
  rw [hcell, CellRun.events_of_ne_write (by decide) s.params 0 _ 0 r.unlock] at hcourse' hm
  have himages (im : Image) :
      im.get (((afterDumpPre u).placed .check m).setTo (timeoutBit r.unlock.tail.value)) = im.get u :=
    calc
      _ = im.get ((afterDumpPre u).placed .check m) := by cases im <;> simp [Image.get]
      _ = im.get (afterDumpPre u) := im.get_placed _ _ _
      _ = im.get u := by cases im <;> simp [Image.get, afterDumpPre]
  refine ⟨((afterDumpPre u).placed .check m).setTo (timeoutBit r.unlock.tail.value), ?_, ?_, ?_, ?_⟩
  · rw [ProgramRun.eventsToUnlock, List.length_append]
    exact hcourse.trans hcourse'
  · rw [ProgramRun.eventsToUnlock, ← List.append_assoc]
    exact hm.setTo _
  · exact (congrArg Vector.toList (himages .pre)).trans himg
  · exact ((himages .post).trans (hother .post nofun)).trans (by simp [Image.get, startProgram])

/-- R162: steps 3 to 5, from the check that saw no TIMEOUT to the finish. -/
theorem course_toFinish {u : State} {tr : List BusEvent} {p : Params} {a : Vector Byte 6} (hok : r.ok = true)
    (hu : u.Midway .programAddress p a n
      (r.writes.flatMap (CellRun.answers .write) ++ (r.lock.answers .lock ++ (dumpAnswers r.post ++ rest))) tr) :
    ∃ v : State, Course .programAddress (writesEvents p 0 (programBytes a) r.writes ++ (r.lock.events p .lock 0 0 ++
        dumpEvents p 0 r.post)).length (afterUnlock u) (v.finishOk 0) ∧
      v.Midway .programAddress p a n rest (tr ++ (writesEvents p 0 (programBytes a) r.writes ++
        (r.lock.events p .lock 0 0 ++ dumpEvents p 0 r.post))) := by
  obtain ⟨-, hlenWrites, hlenPost⟩ := ProgramRun.lengths hok
  obtain ⟨-, -, hwrites, hlock, hpost⟩ := ProgramRun.cells_ok hok
  have hstart : (afterUnlock u).Midway .programAddress p a n
      (r.writes.flatMap (CellRun.answers .write) ++ (r.lock.answers .lock ++ (dumpAnswers r.post ++ rest))) tr :=
    hu.of_same (by simp [afterUnlock, State.sameMidway])
  obtain ⟨r₀, rs, hrs⟩ := List.exists_cons_of_length_eq_add_one hlenWrites
  rw [hrs] at hlenWrites hwrites hstart ⊢
  obtain ⟨v₁, hcourse₁, hv₁⟩ :=
    course_writes performs_write r₀ rs (c := 0) (by simpa using hlenWrites) hwrites hstart (by simp [afterUnlock])
      (by simp [afterUnlock]) (by simp [afterUnlock]) (by simp [afterUnlock, programBytes])
  rw [List.drop_zero] at hcourse₁ hv₁
  obtain ⟨m, hcourse₂, hm⟩ :=
    course_noTail performs_lock (.inr rfl) r.lock hlock
      (hv₁.of_same (t := (v₁.setSeqst .lock).startCell .lock 0) (by simp [State.sameMidway])) (by simp) (by simp)
  have hcell : ((v₁.setSeqst .lock).startCell .lock 0).cell = 0 := by simp
  rw [hcell, CellRun.events_of_ne_write (by decide) p 0 _ 0 r.lock] at hcourse₂ hm
  obtain ⟨v, hcourse₃, hv, -, -⟩ :=
    course_wholeDump .post performs_dumpPost hlenPost hpost
      (hm.of_same (t := afterLock (State.placed .busy m ((v₁.setSeqst .lock).startCell .lock 0)))
        (by simp [afterLock, State.sameMidway])) (by simp [afterLock]) (by simp [afterLock]) (by simp [afterLock])
  refine ⟨v, ?_, by simpa only [List.append_assoc] using hv⟩
  rw [List.length_append, List.length_append]
  exact hcourse₁.trans (hcourse₂.trans hcourse₃)

theorem ProgramRun.timeoutBit_eq (r : ProgramRun) : timeoutBit r.unlock.tail.value = r.timedOut :=
  timeoutBit_readPair _

theorem State.isHalted_fatal (v : Word) (u : State) : ((u.setRes v).finish .fatalTimeout).isHalted := by
  simp [State.isHalted]

end Program

/-! ## The statements -/

/-- Settles O49: the course of steps 1 and 2 ends in the fatal check; `Course.run_withHost` makes it a run under the host's
writes, and `ProgramRun.accounts_toUnlock` reads its trace. -/
theorem fatalTraceSubmissions : Obligations.FatalTraceSubmissions := by
  unfold Obligations.FatalTraceSubmissions
  intro s r rest n hready hhalted hleaves hvalid hok hto hdevice
  obtain ⟨u, hcourse, hu, hpre, hpost⟩ := course_toCheck hhalted hok hdevice
  have haccounts := ProgramRun.accounts_toUnlock hvalid hok
  rw [afterCheck, ProgramRun.timeoutBit_eq, hto, if_pos rfl, haccounts.length] at hcourse
  obtain ⟨k, h', hk, hrun⟩ :=
    hcourse.run_withHost programAddress_hostIndependent (startProgram s).hostSide
      (by simpa [startProgram, State.hostSide] using hleaves)
  refine ⟨_, _, r.eventsToUnlock s.params, k, exec_programAddress_accept hready,
    by simpa [startProgram, State.hostSide] using hk, hrun,
    State.isHalted_fatal r.unlock.tail.value (u.withHost h'), ?_, ?_, ?_, haccounts.submits_eq,
    haccounts.cellWrites_eq, haccounts.length, ProgramRun.polls_toUnlock_ge hok⟩
  · exact hpre
  · exact hpost
  · exact hu.trace

/-- Settles O48: the check saw no TIMEOUT, so steps 3 to 5 follow it; `Course.run_withHost` makes the whole course a run
under the host's writes, and `ProgramRun.accounts` reads its trace. -/
theorem programTraceSubmissions : Obligations.ProgramTraceSubmissions := by
  unfold Obligations.ProgramTraceSubmissions
  intro s r rest n hready hhalted hleaves hvalid hok hto hdevice
  simp only [ProgramRun.answers, List.append_assoc] at hdevice
  obtain ⟨u, hcourse, hu, -, -⟩ := course_toCheck hhalted hok hdevice
  rw [afterCheck, ProgramRun.timeoutBit_eq, hto, if_neg Bool.false_ne_true] at hcourse
  obtain ⟨v, hcourse', hv⟩ := course_toFinish hok hu
  have haccounts := ProgramRun.accounts hvalid hok s.argMac
  have hall := hcourse.trans hcourse'
  have hevents : r.events s.params s.argMac = r.eventsToUnlock s.params ++ (writesEvents s.params 0
      (programBytes s.argMac) r.writes ++ (r.lock.events s.params .lock 0 0 ++ dumpEvents s.params 0 r.post)) := by
    simp only [ProgramRun.events, List.append_assoc]
  rw [← List.length_append, ← hevents, haccounts.length] at hall
  obtain ⟨k, h', hk, hrun⟩ :=
    hall.run_withHost programAddress_hostIndependent (startProgram s).hostSide
      (by simpa [startProgram, State.hostSide] using hleaves)
  refine ⟨_, _, r.events s.params s.argMac, k, exec_programAddress_accept hready,
    by simpa [startProgram, State.hostSide] using hk, hrun, State.isOk_finishOk (s := v.withHost h') 0 hv.running.2.1,
    ?_, haccounts.submits_eq, haccounts.cellWrites_eq, haccounts.length, ProgramRun.polls_ge hok, haccounts.writes⟩
  rw [hevents, ← List.append_assoc]
  exact hv.trace

end Sys2Proof.Machine

/-! PROOFS. The two rejections (60_exceptions.md R191, R192, R194): BAD_OP and BAD_ARG end a request in its acceptance
step, by the decoder's two tests or by the operation's own range check. -/

namespace Sys2Proof

/-! ## The decoder's rejections (R81) -/

theorem decodeReq_of_reservedOp {q : Word} (h : reqOp q = 0 ∨ 0xC ≤ (reqOp q).toNat) :
    decodeReq q = .error .badOp := by
  simp [decodeReq, (Op.ofCode_none _).mpr h]

theorem decodeReq_of_reservedBits {q : Word} {op : Op} (hop : reqOp q = op.code)
    (hbits : q &&& op.mask ≠ op.matchBits) : decodeReq q = .error .badArg := by
  simp [decodeReq, hop, hbits]

/-! ## Requests with an operand out of range (R81, third bullet) -/

/-- The decoder takes a request whatever its operands: their range is not its test (R81). -/
theorem decodeReq_encode {i : Instr} (h : i.space = .request) : decodeReq (encode i) = .ok i := by
  have decodes (op : Op) (hinstr : op.instr (encode i) = i) (hbits : encode i &&& op.mask = op.matchBits) :
      decodeReq (encode i) = .ok i := decodeReq_eq_ok_iff.mpr ⟨op, hinstr.symm, hbits⟩
  cases i with
  | writeReg off => exact decodes .writeReg (by simp [Op.instr]) (Laws.RowBits.writeReg off)
  | readReg off => exact decodes .readReg (by simp [Op.instr]) (Laws.RowBits.readReg off)
  | readMacShadow idx => exact decodes .readMacShadow (by simp [Op.instr]) (Laws.RowBits.readMacShadow idx)
  | waitIdle => exact decodes .waitIdle rfl Laws.RowBits.waitIdle
  | submit c a => exact decodes .submit (by simp [Op.instr]) (Laws.RowBits.submit c a)
  | readCell a => exact decodes .readCell (by simp [Op.instr]) (Laws.RowBits.readCell a)
  | enableWrite => exact decodes .enableWrite rfl Laws.RowBits.enableWrite
  | writeCell a d => exact decodes .writeCell (by simp [Op.instr]) (Laws.RowBits.writeCell a d)
  | disableWrite => exact decodes .disableWrite rfl Laws.RowBits.disableWrite
  | dump => exact decodes .dump rfl Laws.RowBits.dump
  | programAddress => exact decodes .programAddress rfl Laws.RowBits.programAddress
  | e2pRead f | e2pEwds f | e2pEwen f | e2pWrite f | e2pWral f | e2pErase f | e2pEral f
  | e2pReload f | macCsrReadShadow index => cases h

theorem regOffsetOk_eq_false {off : BitVec 12} (h : off.toNat % 2 = 1 ∨ off.toNat > 0xFFC) :
    regOffsetOk off = false := by
  simp only [regOffsetOk, Bool.and_eq_false_iff, beq_eq_false_iff_ne, decide_eq_false_iff_not]
  omega

end Sys2Proof

namespace Sys2Proof.Machine

/-- R81 and R104 give the same range of offsets: the other half of `offsetRejected_eq_false`. -/
theorem offsetRejected_eq_true {off : Offset} (h : regOffsetOk off = false) : offsetRejected off = true := by
  have hbit : off.getLsbD 0 = decide (off.toNat % 2 = 1) := by simp [BitVec.getLsbD, Nat.testBit_zero]
  simp only [regOffsetOk, Bool.and_eq_false_iff, beq_eq_false_iff_ne, decide_eq_false_iff_not] at h
  simp only [offsetRejected, hbit, Bool.or_eq_true, decide_eq_true_eq]
  omega

/-! ## The step of a written request (R168) -/

section Rejections

variable {s : State} {q : Word} {rest : List Input}

section Written

variable (hinputs : s.inputs = .writeReq q :: rest) (hready : s.ready = true)

include hinputs hready

theorem step_writeReq_badOp (hdecode : decodeReq q = .error .badOp) :
    step s = .next ({ s with inputs := rest }.rejectRequest q .badOp) := by
  simp [step, State.fetch, State.fetchRequest, hinputs, hready, hdecode]

theorem step_writeReq_badArg (hdecode : decodeReq q = .error .badArg) :
    step s = .next ({ s with inputs := rest }.rejectRequest q .badArg) := by
  simp [step, State.fetch, State.fetchRequest, hinputs, hready, hdecode]

theorem step_writeReq_ok {i : Instr} (hdecode : decodeReq q = .ok i) :
    step s = exec i { s with inputs := rest } := by
  simp [step, State.fetch, State.fetchRequest, hinputs, hready, hdecode]

end Written

/-- The operation's own range check (R104, R105, R141, R145, R168): the acceptance step ends with BAD_ARG. -/
theorem exec_accept_of_not_wellFormed {i : Instr} (hi : i.wellFormed = false) (hready : s.ready = true) :
    ∃ f, exec i s = .next ((s.accept f (encode i)).finish .badArg) := by
  cases i with
  | writeReg off | readReg off =>
    refine ⟨.hr, ?_⟩
    simp only [exec, execWriteReg, execReadReg]
    rw [State.runRequest_ready _ _ _ _ hready]
    simp [startTransfer, offsetRejected_eq_true hi]
  | readCell a =>
    have hrange : readCellRejected a = true := by simpa [Instr.wellFormed, readCellRejected] using hi
    refine ⟨.hc, ?_⟩
    simp only [exec, execReadCell]
    rw [State.runRequest_ready _ _ _ _ hready]
    simp [startSingleCell, hrange]
  | writeCell a d =>
    have hrange : writeCellRejected a = true := by simpa [Instr.wellFormed, writeCellRejected] using hi
    refine ⟨.hc, ?_⟩
    simp only [exec, execWriteCell]
    rw [State.runRequest_ready _ _ _ _ hready]
    simp [startSingleCell, hrange]
  | readMacShadow _ | waitIdle | submit _ _ | enableWrite | disableWrite | dump | programAddress | e2pRead _
  | e2pEwds _ | e2pEwen _ | e2pWrite _ | e2pWral _ | e2pErase _ | e2pEral _ | e2pReload _
  | macCsrReadShadow _ => cases hi

/-! ## What a rejection leaves (R191, R192, R195) -/

/-- The request `q` is finished with the rejection `c`: no transaction, and RES and the records as they were. -/
def State.rejects (q : Word) (c : OutcomeCode) (s t : State) : Prop :=
  t.isRejected c ∧ t.req = q ∧ s.samePort t ∧ t.res = s.res ∧ s.sameRecords t

/-- A rejection's `finish` (R169) is the one of `c` that neither halts nor completes. -/
theorem State.isRejected_finish {c : OutcomeCode} (hc : c = .badOp ∨ c = .badArg) (hhalted : s.halted = false) :
    (s.finish c).isRejected c := by
  rcases hc with rfl | rfl <;> simp [State.isRejected, hhalted]

/-- The decoder's rejection, before any field is copied. -/
theorem State.rejects_rejectRequest {c : OutcomeCode} (hc : c = .badOp ∨ c = .badArg) (hhalted : s.halted = false) :
    s.rejects q c ({ s with inputs := rest }.rejectRequest q c) :=
  ⟨State.isRejected_finish hc hhalted, rfl, ⟨rfl, rfl, rfl⟩, rfl, ⟨rfl, rfl, rfl, rfl⟩⟩

/-- The range check's rejection, after the fields are copied. -/
theorem State.rejects_accept_finish (f : Format) (hhalted : s.halted = false) :
    s.rejects q .badArg (({ s with inputs := rest }.accept f q).finish .badArg) :=
  ⟨State.isRejected_finish (.inr rfl) hhalted, rfl, ⟨rfl, rfl, rfl⟩, rfl, ⟨rfl, rfl, rfl, rfl⟩⟩

/-- R192, second and third case: an operand out of range. -/
theorem step_rejects_of_not_wellFormed {i : Instr} (hinputs : s.inputs = .writeReq (encode i) :: rest)
    (hready : s.ready = true) (hhalted : s.halted = false) (hspace : i.space = .request)
    (hi : i.wellFormed = false) : ∃ t, step s = .next t ∧ s.rejects (encode i) .badArg t := by
  obtain ⟨f, hexec⟩ := exec_accept_of_not_wellFormed (s := { s with inputs := rest }) hi hready
  exact ⟨_, (step_writeReq_ok hinputs hready (decodeReq_encode hspace)).trans hexec,
    State.rejects_accept_finish f hhalted⟩

end Rejections

/-! ## The statements -/

/-- Settles O14: the decoder's first test rejects the word, and `rejectRequest` copies no field. -/
theorem reservedOpIsBadOp : Obligations.ReservedOpIsBadOp := by
  unfold Obligations.ReservedOpIsBadOp
  intro s q rest hinputs hready hhalted hop
  obtain ⟨hrejected, hreq, hport, hres, hrecords⟩ :=
    State.rejects_rejectRequest (q := q) (rest := rest) (.inl rfl) hhalted
  exact ⟨_, step_writeReq_badOp hinputs hready (decodeReq_of_reservedOp hop), hrejected, hreq, hport, hres, hrecords,
    by simp⟩

/-- Settles O15: the decoder's second test rejects reserved bits; a word with an operand out of range decodes, and its
own range check rejects it. -/
theorem badOperandsAreBadArg : Obligations.BadOperandsAreBadArg := by
  unfold Obligations.BadOperandsAreBadArg
  intro s q rest hinputs hready hhalted hbad
  rcases hbad with ⟨op, hop, hbits⟩ | ⟨off, rfl | rfl, hoff⟩ | ⟨a, rfl, ha⟩ | ⟨a, d, rfl, ha⟩
  case inl =>
    exact ⟨_, step_writeReq_badArg hinputs hready (decodeReq_of_reservedBits hop hbits),
      State.rejects_rejectRequest (.inr rfl) hhalted⟩
  case inr.inl.inl | inr.inl.inr =>
    exact step_rejects_of_not_wellFormed hinputs hready hhalted rfl (regOffsetOk_eq_false hoff)
  case inr.inr.inl | inr.inr.inr =>
    exact step_rejects_of_not_wellFormed hinputs hready hhalted rfl (by simpa [Instr.wellFormed] using ha)

end Sys2Proof.Machine

/-! PROOFS. The encodings both ways (30_encoding.md R70 to R81), the rejected words, the command word's layout (R72,
R73), and the fields the host reads (10_state.md R24, 00_scope.md R16). -/

namespace Sys2Proof

open Machine

/-! ## A word is its fields, one after the other -/

/-- A field that a mask covers has the match's value. -/
theorem field_of_selected {q mask bits : Word} (h : q &&& mask = bits) (start len : Nat)
    (hmask : mask.extractLsb' start len = BitVec.allOnes len) :
    bits.extractLsb' start len = q.extractLsb' start len := by
  rw [← h, BitVec.extractLsb'_and, hmask, BitVec.and_allOnes]

/-- Two fields, the lower one right below the upper one, are one field. -/
theorem join_fields (w : Word) (start low high : Nat) :
    w.extractLsb' (start + low) high ++ w.extractLsb' start low = w.extractLsb' start (high + low) :=
  BitVec.extractLsb'_append_extractLsb'_eq_extractLsb' rfl

theorem whole_word (w : Word) : w.extractLsb' 0 32 = w := BitVec.extractLsb'_eq_self

/-! ## Requests (R77, R80) -/

section Selected

variable {q bits : Word}

/-- Format HR: OP, OFF, reserved. -/
theorem word_of_formatHR (h : q &&& 0xF000FFFF = bits) :
    bits.extractLsb' 28 4 ++ reqOff q ++ bits.extractLsb' 0 16 = q := by
  rw [field_of_selected h 28 4 rfl, field_of_selected h 0 16 rfl, reqOff, join_fields q 16 12 4,
    join_fields q 0 16 16, whole_word]

/-- Format HM: OP, reserved, IDX, reserved. -/
theorem word_of_formatHM (h : q &&& 0xFFFEFFFF = bits) :
    bits.extractLsb' 28 4 ++ bits.extractLsb' 17 11 ++ reqIdx q ++ bits.extractLsb' 0 16 = q := by
  rw [field_of_selected h 28 4 rfl, field_of_selected h 17 11 rfl, field_of_selected h 0 16 rfl, reqIdx,
    join_fields q 17 11 4, join_fields q 16 1 15, join_fields q 0 16 16, whole_word]

/-- Format HS: OP, reserved, CMD, ADDR, reserved. -/
theorem word_of_formatHS (h : q &&& 0xFFF800FF = bits) :
    bits.extractLsb' 28 4 ++ bits.extractLsb' 19 9 ++ (reqCmd q).code ++ reqAddr q ++ bits.extractLsb' 0 8 = q := by
  rw [field_of_selected h 28 4 rfl, field_of_selected h 19 9 rfl, field_of_selected h 0 8 rfl, reqCmd, reqAddr,
    Cmd.code_ofCode, join_fields q 19 9 4, join_fields q 16 3 13, join_fields q 8 8 16, join_fields q 0 8 24,
    whole_word]

/-- Format HC without DATA: OP, reserved, ADDR, reserved. -/
theorem word_of_formatHC (h : q &&& 0xFFFF00FF = bits) :
    bits.extractLsb' 28 4 ++ bits.extractLsb' 16 12 ++ reqAddr q ++ bits.extractLsb' 0 8 = q := by
  rw [field_of_selected h 28 4 rfl, field_of_selected h 16 12 rfl, field_of_selected h 0 8 rfl, reqAddr,
    join_fields q 16 12 4, join_fields q 8 8 16, join_fields q 0 8 24, whole_word]

/-- Format HC with DATA: OP, reserved, ADDR, DATA. -/
theorem word_of_formatHC_data (h : q &&& 0xFFFF0000 = bits) :
    bits.extractLsb' 28 4 ++ bits.extractLsb' 16 12 ++ reqAddr q ++ reqData q = q := by
  rw [field_of_selected h 28 4 rfl, field_of_selected h 16 12 rfl, reqAddr, reqData,
    join_fields q 16 12 4, join_fields q 8 8 16, join_fields q 0 8 24, whole_word]

/-- Format HN: every bit is fixed. -/
theorem word_of_formatHN (h : q &&& 0xFFFFFFFF = bits) : bits = q := by
  rw [← h, show (0xFFFFFFFF : Word) = BitVec.allOnes 32 from rfl, BitVec.and_allOnes]

end Selected

/-- R77: the encoding of a request puts the fields back, and the match's bits everywhere else. -/
theorem encode_instr_of_selected {q : Word} {op : Op} (h : q &&& op.mask = op.matchBits) :
    encode (op.instr q) = q := by
  cases op with
  | writeReg | readReg => exact (word_of_formatHR h :)
  | readMacShadow => exact (word_of_formatHM h :)
  | submit => exact (word_of_formatHS h :)
  | readCell => exact (word_of_formatHC h :)
  | writeCell => exact (word_of_formatHC_data h :)
  | waitIdle | enableWrite | disableWrite | dump | programAddress => exact (word_of_formatHN h :)

/-- R80: a word that decodes is the encoding of its request. -/
theorem encode_of_decodeReq {q : Word} {i : Instr} (h : decodeReq q = .ok i) : encode i = q := by
  obtain ⟨op, rfl, hsel⟩ := decodeReq_eq_ok_iff.mp h
  exact encode_instr_of_selected hsel

/-! ## Command words (R70, R71) and the indirect word (R76) -/

theorem cmdWordOf_fields (w : Word) : cmdWordOf (Cmd.ofCode (w.extractLsb' 28 3)) (cmdFields w) = w := by
  rw [cmdWordOf, Cmd.code_ofCode, cmdFields, join_fields w 28 3 1, join_fields w 10 18 4, join_fields w 9 1 22,
    join_fields w 8 1 23, join_fields w 0 8 24, whole_word]

theorem cmdFields_cmdWordOf (c : Cmd) (f : CmdFields) : cmdFields (cmdWordOf c f) = f := by
  obtain ⟨busy, undescribed, timeout, mal, addr⟩ := f
  simp (disch := decide) only [cmdFields, cmdWordOf, BitVec.extractLsb'_append_eq_of_le, Nat.reduceSub,
    BitVec.extractLsb'_append_eq_right, BitVec.extractLsb'_eq_self]

theorem cmdWordOf_cmd (c : Cmd) (f : CmdFields) : (cmdWordOf c f).extractLsb' 28 3 = c.code := by
  simp (disch := decide) only [cmdWordOf, BitVec.extractLsb'_append_eq_of_le, Nat.reduceSub,
    BitVec.extractLsb'_append_eq_right]

theorem decodeCommand_cmdWordOf (c : Cmd) (f : CmdFields) : decodeCommand (cmdWordOf c f) = Instr.ofCmd c f := by
  rw [decodeCommand, cmdWordOf_cmd, Cmd.ofCode_code, cmdFields_cmdWordOf]

theorem decodeIndirect_encode (x : BitVec 1) :
    decodeIndirect (encode (.macCsrReadShadow x)) = .ok (.macCsrReadShadow x) := by
  revert x; decide

/-- The instructions of E2P_CMD are the eight commands. -/
theorem Instr.exists_ofCmd {i : Instr} (h : i.space = .e2pCmd) : ∃ c f, i = Instr.ofCmd c f := by
  cases i with
  | e2pRead f => exact ⟨.read, f, rfl⟩
  | e2pEwds f => exact ⟨.ewds, f, rfl⟩
  | e2pEwen f => exact ⟨.ewen, f, rfl⟩
  | e2pWrite f => exact ⟨.write, f, rfl⟩
  | e2pWral f => exact ⟨.wral, f, rfl⟩
  | e2pErase f => exact ⟨.erase, f, rfl⟩
  | e2pEral f => exact ⟨.eral, f, rfl⟩
  | e2pReload f => exact ⟨.reload, f, rfl⟩
  | _ => cases h

theorem Instr.exists_macCsrReadShadow {i : Instr} (h : i.space = .macCsrCmd) : ∃ x, i = .macCsrReadShadow x := by
  cases i with
  | macCsrReadShadow x => exact ⟨x, rfl⟩
  | _ => cases h

/-- A byte under zeros. -/
theorem zeros_append_byte (k : Nat) (a : BitVec 8) : 0#k ++ a = a.setWidth (k + 8) :=
  BitVec.eq_of_toNat_eq <| by
    rw [BitVec.toNat_append, BitVec.toNat_setWidth_of_le (Nat.le_add_left 8 k)]
    simp

/-- R70, R72: the command word, field by field; bits 27:8 are 0. -/
theorem cmdWord_eq_fields (busy : Bool) (c : Cmd) (a : BitVec 8) :
    cmdWord busy c a = BitVec.ofBool busy ++ c.code ++ 0#20 ++ a := by
  have hbusy : (if busy then (1#32 <<< 31) else 0#32) = BitVec.ofBool busy ++ 0#3 ++ 0#20 ++ 0#8 := by
    cases busy <;> rfl
  have hcmd : c.code.setWidth 32 <<< 28 = 0#1 ++ c.code ++ 0#20 ++ 0#8 := by cases c <;> rfl
  have haddr : a.setWidth 32 = 0#1 ++ 0#3 ++ 0#20 ++ a := (zeros_append_byte 24 a).symm
  rw [cmdWord, hbusy, hcmd, haddr]
  change BitVec.ofBool busy ++ 0#3 ++ 0#20 ++ 0#8 ||| 0#1 ++ c.code ++ 0#20 ++ 0#8 ||| 0#1 ++ 0#3 ++ 0#20 ++ a = _
  simp only [BitVec.or_append, BitVec.or_zero, BitVec.zero_or]

theorem cmdWord_fields (busy : Bool) (c : Cmd) (a : BitVec 8) :
    (cmdWord busy c a).extractLsb' 31 1 = BitVec.ofBool busy ∧ (cmdWord busy c a).extractLsb' 28 3 = c.code ∧
      (cmdWord busy c a).extractLsb' 8 20 = 0#20 ∧ (cmdWord busy c a).extractLsb' 0 8 = a := by
  simp (disch := decide) only [cmdWord_eq_fields, BitVec.extractLsb'_append_eq_of_le, Nat.reduceSub,
    BitVec.extractLsb'_append_eq_right, BitVec.extractLsb'_eq_self, and_self]

/-- R72: the words the EPB submits are command words with every field but BUSY, CMD and ADDR 0. -/
theorem cmdWordOf_eq_cmdWord (busy : Bool) (c : Cmd) (a : BitVec 8) :
    cmdWordOf c { busy := BitVec.ofBool busy, undescribed := 0, timeout := 0, macAddrLoaded := 0, addr := a } =
      cmdWord busy c a := by
  have hzeros : ∀ x : BitVec 4, x ++ 0#18 ++ 0#1 ++ 0#1 = x ++ 0#20 := by decide
  rw [cmdWord_eq_fields]
  exact congrArg (· ++ a) (hzeros _)

theorem encode_of_decodeIndirect {w : Word} {i : Instr} (h : decodeIndirect w = .ok i) : encode i = w := by
  unfold decodeIndirect at h
  split at h
  next hsel =>
    cases h
    have hbase := field_of_selected hsel 1 31 rfl
    calc
      encode (.macCsrReadShadow (w.extractLsb' 0 1)) = w.extractLsb' 1 31 ++ w.extractLsb' 0 1 := by rw [← hbase]; rfl
      _ = w := by rw [join_fields w 0 1 31, whole_word]
  next => cases h

/-! ## Reserved OP codes (R79, R81) -/

theorem Op.code_injective : Function.Injective Op.code := by
  intro op op' h
  simpa using congrArg Op.ofCode h

theorem reqOp_ne_code_of_reserved {q : Word} (h : reqOp q = 0 ∨ 0xC ≤ (reqOp q).toNat) (op : Op) :
    reqOp q ≠ op.code := by
  intro hop
  rw [← Op.ofCode_none, hop, Op.ofCode_code] at h
  cases h

theorem exists_op_of_not_reserved {q : Word} (h : ¬(reqOp q = 0 ∨ 0xC ≤ (reqOp q).toNat)) :
    ∃ op : Op, reqOp q = op.code := by
  rw [← Op.ofCode_none, ← ne_eq, Option.ne_none_iff_exists'] at h
  obtain ⟨op, hop⟩ := h
  exact ⟨op, (Op.code_ofCode _ _ hop).symm⟩

/-! ## The statements -/

/-- Settles O6: each space has its own decoder, and each undoes the encoding of its rows field by field. -/
theorem decodeOfEncode : Obligations.DecodeOfEncode := by
  unfold Obligations.DecodeOfEncode
  intro i
  cases hspace : i.space with
  | request => exact decodeReq_encode hspace
  | e2pCmd =>
    obtain ⟨c, f, rfl⟩ := Instr.exists_ofCmd hspace
    rw [encode_ofCmd]
    exact congrArg Except.ok (decodeCommand_cmdWordOf c f)
  | macCsrCmd =>
    obtain ⟨x, rfl⟩ := Instr.exists_macCsrReadShadow hspace
    exact decodeIndirect_encode x

/-- Settles O7: a word is its fields one after the other, and a decoder's test fixes the fields that are no operands. -/
theorem encodeOfDecode : Obligations.EncodeOfDecode := by
  unfold Obligations.EncodeOfDecode
  intro space w i h
  refine ⟨decodeIn_space space w i h, ?_⟩
  cases space with
  | request => exact encode_of_decodeReq h
  | e2pCmd =>
    cases h
    rw [decodeCommand, encode_ofCmd, cmdWordOf_fields]
  | macCsrCmd => exact encode_of_decodeIndirect h

/-- Settles O9: the decoder answers BAD_OP at its first test and BAD_ARG at its second, and nothing else. -/
theorem rejectedRequestWords : Obligations.RejectedRequestWords := by
  unfold Obligations.RejectedRequestWords
  intro q
  by_cases hreserved : reqOp q = 0 ∨ 0xC ≤ (reqOp q).toNat
  case pos =>
    have hdecode := decodeReq_of_reservedOp hreserved
    refine ⟨iff_of_true hdecode hreserved, iff_of_false (by simp [hdecode]) ?_, by simp [hdecode]⟩
    rintro ⟨op, hop, -⟩
    exact reqOp_ne_code_of_reserved hreserved op hop
  case neg =>
    obtain ⟨op, hop⟩ := exists_op_of_not_reserved hreserved
    have hselects (op' : Op) : reqOp q = op'.code ↔ op' = op := by rw [hop, Op.code_injective.eq_iff, eq_comm]
    by_cases hbits : q &&& op.mask = op.matchBits
    · have hdecode := decodeReq_eq_ok_iff.mpr ⟨op, rfl, hbits⟩
      exact ⟨iff_of_false (by simp [hdecode]) hreserved, by simp [hdecode, hselects, hbits], by simp [hdecode]⟩
    · have hdecode := decodeReq_of_reservedBits hop hbits
      exact ⟨iff_of_false (by simp [hdecode]) hreserved, by simp [hdecode, hselects, hbits], by simp [hdecode]⟩

/-- Settles O10: `cmdWord_eq_fields` puts the fields side by side. -/
theorem commandWordLayout : Obligations.CommandWordLayout := by
  unfold Obligations.CommandWordLayout
  intro busy c a
  have haddr : 0#8 ++ a = a.setWidth 16 := zeros_append_byte 8 a
  obtain ⟨hbusy, hcmd, hundescribed, haddr'⟩ := cmdWord_fields busy c a
  refine ⟨?busy, hcmd, hundescribed, haddr', ?low, ?high0, ?high1, ?diff⟩
  case busy => cases busy <;> simpa using congrArg (fun x => x.getLsbD 0) hbusy
  case low => rw [loHalf_cmdWord, haddr]
  case high0 | high1 => rw [hiHalf_cmdWord]; cases c <;> rfl
  case diff =>
    rw [cmdWord_eq_fields, cmdWord_eq_fields]
    change (1#1 ++ c.code ++ 0#20 ++ a) ^^^ (0#1 ++ c.code ++ 0#20 ++ a) = _
    simp only [BitVec.xor_append, BitVec.xor_self]
    rfl

/-- Settles O11: the decoder runs on the literal words. -/
theorem writtenOutWordsDecode : Obligations.WrittenOutWordsDecode := by
  unfold Obligations.WrittenOutWordsDecode
  decide

end Sys2Proof

namespace Sys2Proof.Machine

theorem status_bits (s : State) :
    s.status.getLsbD 0 = s.ready ∧ s.status.getLsbD 1 = s.halted ∧ s.status.getLsbD 25 = s.half ∧
      s.status.getLsbD 26 = s.toSeen := by
  simp only [State.status, BitVec.getLsbD_append, Nat.reduceLT, Nat.reduceSub, if_true, if_false]
  simp

theorem status_fields (s : State) :
    s.status.extractLsb' 2 3 = s.outcome.code ∧ s.status.extractLsb' 8 4 = s.opst ∧
      s.status.extractLsb' 12 4 = s.seqst.code ∧ s.status.extractLsb' 16 4 = s.cmdst.code ∧
      s.status.extractLsb' 20 5 = s.cell := by
  simp (disch := decide) only [State.status, BitVec.extractLsb'_append_eq_of_le, Nat.reduceSub,
    BitVec.extractLsb'_append_eq_right, and_self]

theorem status_reserved (s : State) : s.status.extractLsb' 5 3 = 0 ∧ s.status.extractLsb' 27 5 = 0 := by
  simp (disch := decide) only [State.status, BitVec.extractLsb'_append_eq_of_le, Nat.reduceSub,
    BitVec.extractLsb'_append_eq_right, BitVec.extractLsb'_eq_self]
  exact ⟨rfl, rfl⟩

/-- Settles O57: STATUS is its fields side by side (R24), and each code is one of its table's. -/
theorem statusFields : Obligations.StatusFields := by
  unfold Obligations.StatusFields
  intro s
  obtain ⟨hready, hhalted, hhalf, hto⟩ := status_bits s
  obtain ⟨houtcome, hopst, hseqst, hcmdst, hcell⟩ := status_fields s
  obtain ⟨hlow, hhigh⟩ := status_reserved s
  refine ⟨hready, hhalted, houtcome, hlow, hopst, hseqst, hcmdst, hcell, hhalf, hto, hhigh, ?_, ?_, ?_⟩
  · cases s.outcome <;> decide
  · cases s.cmdst <;> decide
  · cases s.seqst <;> decide

/-- Settles O58: byte 0 goes through the two masks, and the vector's other bytes stay. -/
theorem addressFixup : Obligations.AddressFixup := by
  unfold Obligations.AddressFixup
  intro a
  have hbyte : (fixupAddress a)[0] = (a[0] &&& 0xFE) ||| 0x02 := Vector.getElem_set_self _
  refine ⟨hbyte, ?_, ?_, fun j hj => ?_⟩
  · simp [hbyte]
  · simp [hbyte]
  · exact Vector.getElem_set_ne _ _ (Ne.symm hj)

end Sys2Proof.Machine

/-! PROOFS. One step of the machine (43_sequencer.md R168, R174): the acceptance of each request, and everything a step
can do. -/

namespace Sys2Proof.Machine

/-! ## Acceptance (R168) -/

/-- The format of a request's word (R79); a word of the device port has none, and HN copies no field. -/
def formatOf : Instr → Format
  | .writeReg _ | .readReg _ => .hr
  | .readMacShadow _ => .hm
  | .submit _ _ => .hs
  | .readCell _ | .writeCell _ _ => .hc
  | .waitIdle | .enableWrite | .disableWrite | .dump | .programAddress => .hn
  | .e2pRead _ | .e2pEwds _ | .e2pEwen _ | .e2pWrite _ | .e2pWral _ | .e2pErase _ | .e2pEral _ | .e2pReload _
  | .macCsrReadShadow _ => .hn

/-- A request's pseudocode up to its first transaction, its operands being in range. -/
def beginRequest : Instr → State → State
  | .writeReg _ | .readReg _ | .readMacShadow _ => startTransfer false
  | .waitIdle => fun t => ((t.setSeqst .single).setCell 0).setCmdst .busy
  | .submit _ _ => startSubmit
  | .readCell a => startSingleCell .read false (cellOfAddr a)
  | .enableWrite => startSingleCell .unlock false 0
  | .writeCell a _ => startSingleCell .write false (cellOfAddr a)
  | .disableWrite => startSingleCell .lock false 0
  | .dump | .programAddress => fun t => (t.setSeqst .dumpPre).startSeqCell .read 0
  | .e2pRead _ | .e2pEwds _ | .e2pEwen _ | .e2pWrite _ | .e2pWral _ | .e2pErase _ | .e2pEral _ | .e2pReload _
  | .macCsrReadShadow _ => id

theorem cellAddr_cellOfAddr {a : Byte} (h : a.toNat ≤ 31) : cellAddr (cellOfAddr a) = a := by
  unfold cellAddr cellOfAddr
  bv_omega

/-- The state in which the request `i`, accepted at `s`, has begun. -/
def State.begun (i : Instr) (s : State) : State := beginRequest i (s.accept (formatOf i) (encode i))

section Acceptance

variable {s : State} {i : Instr}

theorem exec_waitIdle_accept (h : s.ready = true) : exec .waitIdle s = .next (s.begun .waitIdle) := by
  simp only [exec, execWaitIdle]
  exact State.runRequest_ready _ _ _ _ h

theorem exec_readCell_accept {a : Byte} (ha : a.toNat ≤ 31) (h : s.ready = true) :
    exec (.readCell a) s = .next (s.begun (.readCell a)) := by
  have haddr : (s.accept .hc (encode (.readCell a))).curAddr = a := by simp
  have hrange : readCellRejected a = false := by simpa [readCellRejected] using ha
  simp only [exec, execReadCell]
  rw [State.runRequest_ready _ _ _ _ h, haddr, hrange]
  rfl

theorem exec_enableWrite_accept (h : s.ready = true) : exec .enableWrite s = .next (s.begun .enableWrite) := by
  simp only [exec, execEnableWrite]
  exact State.runRequest_ready _ _ _ _ h

theorem exec_writeCell_accept {a d : Byte} (ha : a.toNat ≤ 6) (h : s.ready = true) :
    exec (.writeCell a d) s = .next (s.begun (.writeCell a d)) := by
  have haddr : (s.accept .hc (encode (.writeCell a d))).curAddr = a := by simp
  have hrange : writeCellRejected a = false := by simpa [writeCellRejected] using ha
  simp only [exec, execWriteCell]
  rw [State.runRequest_ready _ _ _ _ h, haddr, hrange]
  rfl

theorem exec_disableWrite_accept (h : s.ready = true) : exec .disableWrite s = .next (s.begun .disableWrite) := by
  simp only [exec, execDisableWrite]
  exact State.runRequest_ready _ _ _ _ h

theorem exec_dump_accept (h : s.ready = true) : exec .dump s = .next (s.begun .dump) := by
  simp only [exec, execDump]
  exact State.runRequest_ready _ _ _ _ h

/-- R168: a request whose operands are in range begins in its acceptance step. -/
theorem exec_accept (hi : i.space = .request) (hwf : i.wellFormed = true) (hready : s.ready = true) :
    exec i s = .next (s.begun i) := by
  cases i with
  | writeReg off => exact exec_writeReg_accept hwf hready
  | readReg off => exact exec_readReg_accept hwf hready
  | readMacShadow idx => exact exec_readMacShadow_accept idx hready
  | waitIdle => exact exec_waitIdle_accept hready
  | submit c a => exact exec_submit_accept hready
  | readCell a => exact exec_readCell_accept (of_decide_eq_true hwf) hready
  | enableWrite => exact exec_enableWrite_accept hready
  | writeCell a d => exact exec_writeCell_accept (of_decide_eq_true hwf) hready
  | disableWrite => exact exec_disableWrite_accept hready
  | dump => exact exec_dump_accept hready
  | programAddress => exact exec_programAddress_accept hready
  | _ => cases hi

theorem startDump_eq (s : State) :
    (s.setSeqst .dumpPre).startSeqCell .read 0 =
      { s with seqst := .dumpPre, cmdst := .prewait, cell := 0, curCmd := .read, curAddr := cellAddr 0 } := by
  simp only [State.startSeqCell, State.startCell, State.setSeqst, State.setCurAddr, State.setCell, State.setCurCmd,
    State.setCmdst, CellOp.cmd]

/-- Up to its first transaction a request moves the program point, CUR_CMD and CUR_ADDR, and nothing else. -/
theorem beginRequest_eq (i : Instr) (s : State) : ∃ q c x cmd a,
    beginRequest i s = { s with seqst := q, cmdst := c, cell := x, curCmd := cmd, curAddr := a } := by
  cases i with
  | dump | programAddress => exact ⟨_, _, _, _, _, startDump_eq s⟩
  | _ => exact ⟨_, _, _, _, _, rfl⟩

/-- The program point at which a request begins is one of its own (R170); a transfer keeps CELL, which is 0 between
requests (R169). -/
theorem State.begun_pointOf (hi : i.space = .request) (hwf : i.wellFormed = true)
    (hcell : formatOf i = .hr ∨ formatOf i = .hm → s.cell = 0) : (s.begun i).pointOf i := by
  cases i with
  | writeReg off | readReg off | readMacShadow idx =>
    have hcell := hcell (by simp [formatOf])
    simp [State.begun, formatOf, State.pointOf, beginRequest, hcell]
  | waitIdle | submit c a => simp [State.begun, formatOf, State.pointOf, beginRequest]
  | enableWrite | disableWrite | dump | programAddress =>
    simp [State.begun, formatOf, State.pointOf, beginRequest, startSingleCell, CellOp.hasPoint, CellOp.cmd]
  | readCell a =>
    have hcellAddr := cellAddr_cellOfAddr (of_decide_eq_true hwf)
    simp [State.begun, formatOf, State.pointOf, beginRequest, startSingleCell, CellOp.hasPoint, CellOp.cmd, hcellAddr]
  | writeCell a d =>
    have hcellAddr := cellAddr_cellOfAddr (a := a) (by have := of_decide_eq_true hwf; omega)
    simp [State.begun, formatOf, State.pointOf, beginRequest, startSingleCell, CellOp.hasPoint, CellOp.cmd, hcellAddr]
  | _ => cases hi

/-- What acceptance latches for every request, and what it leaves alone (R168). -/
theorem State.begun_latches (i : Instr) (s : State) :
    s.sameHost (s.begun i) ∧ s.samePort (s.begun i) ∧ s.sameRecords (s.begun i) ∧ (s.begun i).req = encode i ∧
      (s.begun i).ready = false ∧ (s.begun i).halted = s.halted ∧ (s.begun i).curOp = reqOp (encode i) ∧
      (s.begun i).opst = reqOp (encode i) ∧ (s.begun i).curVal = s.argVal ∧ (s.begun i).curMac = s.argMac ∧
      (s.begun i).half = false ∧ (s.begun i).res = s.res ∧ (s.begun i).outcome = s.outcome ∧
      (s.begun i).latchLo = s.latchLo := by
  obtain ⟨q, c, x, cmd, a, h⟩ := beginRequest_eq i (s.accept (formatOf i) (encode i))
  rw [State.begun, h]
  simp [State.sameHost, State.samePort, State.sameRecords]

/-- R78: the registers that only the request's format copies. -/
theorem State.begun_operands (i : Instr) (s : State) :
    (s.begun i).curOff = (if formatOf i = .hr then reqOff (encode i) else s.curOff) ∧
      (s.begun i).curIdx = (if formatOf i = .hm then reqIdx (encode i) else s.curIdx) ∧
      (s.begun i).curData = (if formatOf i = .hc then reqData (encode i) else s.curData) := by
  obtain ⟨q, c, x, cmd, a, h⟩ := beginRequest_eq i (s.accept (formatOf i) (encode i))
  rw [State.begun, h]
  simp

theorem State.begun_running (i : Instr) (h : s.halted = false) : (s.begun i).running i := by
  obtain ⟨-, -, -, hreq, hready, hhalted, -⟩ := s.begun_latches i
  exact ⟨hready, hhalted.trans h, hreq⟩

end Acceptance

/-! ## Everything a step can do (R174) -/

/-- Everything a step from `s` can do: settle the head of the pending actions or have nothing to do, reset, reject or accept
a written request, take a transaction step of the request in progress, put a word on the device port, or stop where REQ
holds no request. -/
inductive Stepped (s : State) (r : Result) : Prop
  | settled (h : HostSide) (hr : r = .next (s.withHost h))
  | reset (rest : List Input) (head : s.inputs = .reset :: rest)
      (hr : r = .next (State.resetEvent { s with inputs := rest }))
  | rejected (q : Word) (c : OutcomeCode) (ins : List Input) (hready : s.ready = true) (hc : c = .badOp ∨ c = .badArg)
      (hr : r = .next ({ s with inputs := ins }.rejectRequest q c))
  | accepted (i : Instr) (ins : List Input) (hready : s.ready = true) (hi : i.space = .request)
      (hr : r = exec i { s with inputs := ins })
  | running (i : Instr) (ins : List Input) (hi : i.space = .request) (hdecode : decodeReq s.req = .ok i)
      (hrun : s.running i) (hr : r = exec i { s with inputs := ins })
  | word (i : Instr) (ins : List Input) (head : (∃ w, s.inputs = .command w :: ins) ∨ ∃ x, s.inputs = .indirect x :: ins)
      (hi : i.space ≠ .request) (hr : r = exec i { s with inputs := ins })
  | stopped (f : Fault) (e : Reject) (hready : s.ready = false) (hhalted : s.halted = false)
      (hdecode : decodeReq s.req = .error e) (hr : r = .fault f)

/-- What a fetch makes of a step. -/
def Fetched.result : Fetched → Result
  | .instr i t => exec i t
  | .settled t => .next t
  | .stopped f => .fault f

theorem step_eq (s : State) : step s = s.fetch.result := by
  unfold step Fetched.result
  cases s.fetch <;> rfl

theorem fetchRunning_stepped (s : State) (ins : List Input) :
    Stepped s (State.fetchRunning { s with inputs := ins }).result := by
  unfold State.fetchRunning
  split
  next => exact .settled ⟨ins, s.argVal, s.argMac⟩ rfl
  next hbusy =>
    obtain ⟨hready, hhalted⟩ : s.ready = false ∧ s.halted = false := by simpa using hbusy
    cases hdecode : decodeReq s.req with
    | ok i =>
      have hrun : s.running i := ⟨hready, hhalted, (encode_of_decodeReq hdecode).symm⟩
      exact .running i ins (decodeIn_space .request _ _ hdecode) hdecode hrun rfl
    | error r => exact .stopped _ r hready hhalted hdecode rfl

theorem fetchRequest_stepped (s : State) (q : Word) (ins : List Input) :
    Stepped s (State.fetchRequest q { s with inputs := ins }).result := by
  unfold State.fetchRequest
  split
  next hready =>
    split
    next i hdecode => exact .accepted i ins hready (decodeIn_space .request _ _ hdecode) rfl
    next => exact .rejected q .badOp ins hready (.inl rfl) rfl
    next => exact .rejected q .badArg ins hready (.inr rfl) rfl
  next => exact .settled ⟨ins, s.argVal, s.argMac⟩ rfl

theorem step_stepped (s : State) : Stepped s (step s) := by
  rw [step_eq]
  unfold State.fetch
  split
  next => exact fetchRunning_stepped s s.inputs
  next => exact fetchRunning_stepped s _
  next =>
    split
    next => exact .settled ⟨_, s.argVal, s.argMac⟩ rfl
    next => exact fetchRunning_stepped s s.inputs
  next => exact fetchRequest_stepped s _ _
  next => exact .settled ⟨_, _, s.argMac⟩ rfl
  next => exact .settled ⟨_, s.argVal, _⟩ rfl
  next head => exact .reset _ head rfl
  next head => exact .word _ _ (.inl ⟨_, head⟩) (by rw [decodeCommand, Instr.ofCmd_space]; decide) rfl
  next head => exact .word (.macCsrReadShadow _) _ (.inr ⟨_, head⟩) nofun rfl

/-! ## The words of the device port (R70, R76) -/

theorem exec_ofCmd (c : Cmd) (f : CmdFields) (s : State) :
    exec (Instr.ofCmd c f) s = .next (s.writeWord s.params.e2pCmd (cmdWordOf c f)) := by
  cases c <;> rfl

theorem exec_macCsrReadShadow (x : BitVec 1) (s : State) :
    exec (.macCsrReadShadow x) s = .next (s.writeWord s.params.macCsrCmd (macShadowWord x)) := rfl

theorem exec_word {i : Instr} (hi : i.space ≠ .request) (s : State) :
    ∃ o v, (o = s.params.e2pCmd ∨ o = s.params.macCsrCmd) ∧ exec i s = .next (s.writeWord o v) := by
  cases hspace : i.space with
  | request => exact absurd hspace hi
  | e2pCmd =>
    obtain ⟨c, f, rfl⟩ := Instr.exists_ofCmd hspace
    exact ⟨_, _, .inl rfl, exec_ofCmd c f s⟩
  | macCsrCmd =>
    obtain ⟨x, rfl⟩ := Instr.exists_macCsrReadShadow hspace
    exact ⟨_, _, .inr rfl, exec_macCsrReadShadow x s⟩

/-- Such a word moves nothing but the port (log entry 8). -/
theorem writeWord_eq (o : Offset) (v : Word) (s : State) :
    s.writeWord o v =
      { s with
        window := Memory.writeHalf (Memory.writeHalf s.window o (loHalf v)) (o + 2) (hiHalf v)
        device := (s.device.afterWrite s.params o (loHalf v)).afterWrite s.params (o + 2) (hiHalf v)
        trace := s.trace ++ [.write o (loHalf v), .write (o + 2) (hiHalf v)] } := by
  simp [State.writeWord, State.portWrite]

end Sys2Proof.Machine

/-! PROOFS. What every transaction step of every request does and leaves alone (43_sequencer.md R174): one relation,
`TransactionStep`, from which the frames of a step follow. -/

namespace Sys2Proof.Machine

/-! ## The transaction of a step -/

/-- Where the parameters are R10's, `o` is the offset of a half-word (R50, R57). -/
def State.aligned (s : State) (o : Offset) : Prop := s.params.valid = true → o.toNat % 2 = 0

/-- From `s` to `t` exactly one transaction went over the device port, at an aligned offset, and it alone moved the window
and the device. -/
def State.issues (s t : State) : Prop :=
  ∃ e : BusEvent, t.trace = s.trace ++ [e] ∧ s.aligned e.off ∧
    (∀ o v, e = .read o v → v = s.readValue o ∧ t.window = s.window ∧ t.device = s.device.afterRead s.params o) ∧
    (∀ o v, e = .write o v → t.window = Memory.writeHalf s.window o v ∧ t.device = s.device.afterWrite s.params o v)

theorem params_even {p : Params} (h : p.valid = true) :
    p.e2pCmd.toNat % 2 = 0 ∧ p.e2pData.toNat % 2 = 0 ∧ p.macCsrCmd.toNat % 2 = 0 ∧ p.macCsrData.toNat % 2 = 0 := by
  simp only [Params.valid, Params.offsetOk, Bool.and_eq_true, beq_iff_eq] at h
  omega

theorem even_of_not_offsetRejected {o : Offset} (h : offsetRejected o = false) : o.toNat % 2 = 0 := by
  simp only [offsetRejected, Bool.or_eq_false_iff] at h
  obtain ⟨hbit, -⟩ := h
  simp only [BitVec.getLsbD, Nat.testBit_zero, decide_eq_false_iff_not] at hbit
  omega

section Transaction

variable {s t u : State}

theorem State.aligned.high {o : Offset} (h : s.aligned o) : s.aligned (o + 2) := by
  intro hvalid
  have := h hvalid
  bv_omega

theorem State.issues.write {o : Offset} (v : Half) (ho : s.aligned o) (hport : (s.portWrite o v).samePort t) :
    s.issues t := by
  obtain ⟨hwindow, hdevice, htrace⟩ := hport
  refine ⟨.write o v, htrace, ho, nofun, fun _ _ he => ?_⟩
  cases he
  exact ⟨hwindow, hdevice⟩

theorem State.issues.read {o : Offset} (ho : s.aligned o) (hport : (s.portRead o).samePort t) : s.issues t := by
  obtain ⟨hwindow, hdevice, htrace⟩ := hport
  refine ⟨.read o (s.readValue o), htrace, ho, fun _ _ he => ?_, nofun⟩
  cases he
  exact ⟨rfl, hwindow, hdevice⟩

/-! ## A transaction step -/

/-- What every transaction step from `s` to `t` does: one transaction; the host's registers, the parameters and the latches
stay; TO moves at the check's high half alone (R124); RES moves at the end of the request alone (R25). -/
structure TransactionStep (s t : State) : Prop where
  host : s.sameHost t
  latches : s.sameLatches t
  issues : s.issues t
  toSeen : t.toSeen = if s.cmdst = .check ∧ s.half = true then timeoutBit s.cmdValue else s.toSeen
  res : t.res = s.res ∨ t.isOk ∨ t.isHalted

/-- From `u` to `t` the rest of a step, after its transaction, has run (R169, R172, R173): it moves the program point, the
images and the cell registers, or finishes the request. -/
structure Rests (u t : State) : Prop where
  host : u.sameHost t
  latches : u.sameLatches t
  port : u.samePort t
  toSeen : t.toSeen = u.toSeen
  res : u.halted = false → t.res = u.res ∨ t.isOk

def Rest (k : State → State) : Prop := ∀ u, Rests u (k u)

/-- From `s` to `u` a step has taken its transaction and nothing of its rest. -/
structure Transacted (s u : State) : Prop where
  host : s.sameHost u
  latches : s.sameLatches u
  issues : s.issues u
  toSeen : u.toSeen = if s.cmdst = .check ∧ s.half = true then timeoutBit s.cmdValue else s.toSeen
  res : u.res = s.res
  halted : u.halted = false

theorem State.sameHost.trans (h : s.sameHost u) (h' : u.sameHost t) : s.sameHost t := by
  obtain ⟨hval, hmac, hparams, hinputs⟩ := h
  obtain ⟨hval', hmac', hparams', hinputs'⟩ := h'
  exact ⟨hval'.trans hval, hmac'.trans hmac, hparams'.trans hparams, hinputs'.trans hinputs⟩

theorem State.sameLatches.trans (h : s.sameLatches u) (h' : u.sameLatches t) : s.sameLatches t := by
  obtain ⟨hreq, hop, hoff, hidx, hval, hmac⟩ := h
  obtain ⟨hreq', hop', hoff', hidx', hval', hmac'⟩ := h'
  exact ⟨hreq'.trans hreq, hop'.trans hop, hoff'.trans hoff, hidx'.trans hidx, hval'.trans hval, hmac'.trans hmac⟩

theorem State.issues.of_samePort (h : s.issues u) (hport : u.samePort t) : s.issues t := by
  obtain ⟨hwindow, hdevice, htrace⟩ := hport
  unfold State.issues
  rwa [hwindow, hdevice, htrace]

theorem Transacted.step (h : Transacted s u) : TransactionStep s u :=
  ⟨h.host, h.latches, h.issues, h.toSeen, .inl h.res⟩

theorem Transacted.rest (h : Transacted s u) {k : State → State} (hk : Rest k) : TransactionStep s (k u) where
  host := h.host.trans (hk u).host
  latches := h.latches.trans (hk u).latches
  issues := h.issues.of_samePort (hk u).port
  toSeen := (hk u).toSeen.trans h.toSeen
  res := ((hk u).res h.halted).imp (·.trans h.res) .inl

/-! ## The rests that occur -/

/-- A rest that does not finish. -/
theorem Rests.of_keeping (h : u.sameHost t ∧ u.sameLatches t ∧ u.samePort t ∧ t.toSeen = u.toSeen ∧ t.res = u.res) :
    Rests u t := by
  obtain ⟨hhost, hlatches, hport, hto, hres⟩ := h
  exact ⟨hhost, hlatches, hport, hto, fun _ => .inl hres⟩

theorem rest_setCmdst (c : CmdSt) : Rest (State.setCmdst c) :=
  fun _ => .of_keeping (by simp [State.sameHost, State.sameLatches, State.samePort])

theorem rest_setMacReading (b : Bool) : Rest (State.setMacReading b) :=
  fun _ => .of_keeping (by simp [State.sameHost, State.sameLatches, State.samePort])

theorem rest_startPhase (q : SeqSt) (op : CellOp) (c : CellIx) : Rest (fun u => (u.setSeqst q).startCell op c) :=
  fun _ => .of_keeping (by simp [State.sameHost, State.sameLatches, State.samePort])

theorem rest_startSeqCell (op : CellOp) (c : CellIx) : Rest (State.startSeqCell op c) :=
  fun _ => .of_keeping (by simp [State.sameHost, State.sameLatches, State.samePort])

theorem rest_afterUnlock : Rest afterUnlock :=
  fun _ => .of_keeping (by simp [afterUnlock, State.sameHost, State.sameLatches, State.samePort])

theorem rest_afterLock : Rest afterLock :=
  fun _ => .of_keeping (by simp [afterLock, State.sameHost, State.sameLatches, State.samePort])

theorem rest_writeNext : Rest writeNext := by
  intro u
  unfold writeNext
  split
  · exact .of_keeping (by simp [State.sameHost, State.sameLatches, State.samePort])
  · exact rest_startPhase .lock .lock 0 u

theorem rest_finishOk (v : Word) : Rest (State.finishOk v) := fun _ =>
  { host := by simp [State.sameHost]
    latches := by simp [State.sameLatches]
    port := by simp [State.samePort]
    toSeen := by simp
    res := fun hhalted => .inr (State.isOk_finishOk v hhalted) }

/-- A rest after the write of an image's cell. -/
theorem Rest.image {k : State → State} (hk : Rest k) (im : Image) (c : CellIx) (b : Byte) :
    Rest (fun u => k (im.set c b u)) := by
  intro u
  obtain ⟨hhost, hlatches, hport, hto, hres⟩ := hk (im.set c b u)
  cases im <;> exact ⟨hhost, hlatches, hport, hto, hres⟩

theorem rest_dumpNext (im : Image) {k : State → State} (hk : Rest k) (d : Word) : Rest (dumpNext im.set k d) := by
  intro u
  unfold dumpNext
  split
  · exact hk.image im u.cell (dataByte d) u
  · exact (rest_startSeqCell .read (u.cell + 1)).image im u.cell (dataByte d) u

theorem CellOp.rest_afterBusy (op : CellOp) {k : Word → State → State} (hk : ∀ v, Rest (k v)) (v : Word) :
    Rest (op.afterBusy k v) := by
  cases op with
  | read => exact rest_setCmdst .read
  | unlock => exact rest_setCmdst .check
  | write | lock => exact hk v

/-- A transaction that is not the high half of the check's read. -/
theorem Transacted.of_registers (hc : ¬(s.cmdst = .check ∧ s.half = true)) (hissues : s.issues u)
    (hhost : s.sameHost u) (hlatches : s.sameLatches u) (hto : u.toSeen = s.toSeen) (hres : u.res = s.res)
    (hhalted : u.halted = false) : Transacted s u :=
  ⟨hhost, hlatches, hissues, by rw [if_neg hc, hto], hres, hhalted⟩

section Accesses

variable (hhalted : s.halted = false)

include hhalted

theorem transacted_write {o : Offset} (ho : s.aligned o) (v : Half) (half : Bool)
    (hc : ¬(s.cmdst = .check ∧ s.half = true)) : Transacted s ((s.portWrite o v).setHalf half) :=
  .of_registers hc (.write v ho (by simp [State.samePort])) (by simp [State.sameHost]) (by simp [State.sameLatches])
    (by simp) (by simp) (by simpa using hhalted)

theorem transacted_readLow {o : Offset} (ho : s.aligned o) (v : Half) (hl : s.half = false) :
    Transacted s (((s.portRead o).setLatch v).setHalf true) :=
  .of_registers (by simp [hl]) (.read ho (by simp [State.samePort])) (by simp [State.sameHost])
    (by simp [State.sameLatches]) (by simp) (by simp) (by simpa using hhalted)

theorem transacted_readHigh {o : Offset} (ho : s.aligned o) (hc : s.cmdst ≠ .check) :
    Transacted s ((s.portRead o).setHalf false) :=
  .of_registers (by simp [hc]) (.read ho (by simp [State.samePort])) (by simp [State.sameHost])
    (by simp [State.sameLatches]) (by simp) (by simp) (by simpa using hhalted)

theorem transacted_pollHigh {o : Offset} (ho : s.aligned o) (v : Word) (hc : s.cmdst ≠ .check) :
    Transacted s (((s.portRead o).setHalf false).setLastCmd v) :=
  .of_registers (by simp [hc]) (.read ho (by simp [State.samePort])) (by simp [State.sameHost])
    (by simp [State.sameLatches]) (by simp) (by simp) (by simpa using hhalted)

/-- R124: the high half of the check, which writes TO. -/
theorem transacted_checkHigh {o : Offset} (ho : s.aligned o) (hc : s.cmdst = .check) (hh : s.half = true) :
    Transacted s ((((s.portRead o).setHalf false).setLastCmd s.cmdValue).setTo (timeoutBit s.cmdValue)) where
  host := by simp [State.sameHost]
  latches := by simp [State.sameLatches]
  issues := .read ho (by simp [State.samePort])
  toSeen := by simp [hc, hh]
  res := by simp
  halted := by simpa using hhalted

/-! ## Register accesses, polls and the check -/

theorem writeRegister_transacts {o : Offset} (ho : s.aligned o) (v : Word) {k : State → State} (hk : Rest k)
    (hc : s.cmdst ≠ .check) : TransactionStep s (s.writeRegister o v k) :=
  State.writeRegister_cases (TransactionStep s) o v k
    (fun _ => (transacted_write hhalted ho _ _ (by simp [hc])).step)
    (fun _ => (transacted_write hhalted ho.high _ _ (by simp [hc])).rest hk)

theorem readRegister_transacts {o : Offset} (ho : s.aligned o) {k : Word → State → State} (hk : ∀ v, Rest (k v))
    (hc : s.cmdst ≠ .check) : TransactionStep s (s.readRegister o k) :=
  State.readRegister_cases (TransactionStep s) o k
    (fun hl => (transacted_readLow hhalted ho _ hl).step)
    (fun _ => (transacted_readHigh hhalted ho.high hc).rest (hk _))

theorem poll_transacts {k : Word → State → State} (hk : ∀ v, Rest (k v)) (hc : s.cmdst ≠ .check) :
    TransactionStep s (s.poll k) :=
  have ho : s.aligned s.params.e2pCmd := fun hvalid => (params_even hvalid).1
  State.poll_cases (TransactionStep s) k
    (fun hl => (transacted_readLow hhalted ho _ hl).step)
    (fun _ _ => (transacted_pollHigh hhalted ho.high _ hc).step)
    (fun _ _ => (transacted_pollHigh hhalted ho.high _ hc).rest (hk _))

theorem checkTimeout_transacts {k : Word → State → State} (hk : ∀ v, Rest (k v)) (hc : s.cmdst = .check) :
    TransactionStep s (s.checkTimeout k) := by
  have ho : s.aligned s.params.e2pCmd := fun hvalid => (params_even hvalid).1
  refine State.checkTimeout_cases (TransactionStep s) k ?low ?fatal ?ok
  case low => exact fun hl => (transacted_readLow hhalted ho _ hl).step
  case ok =>
    intro hh hto
    have hcheck := transacted_checkHigh hhalted ho.high hc hh
    rw [hto] at hcheck
    exact hcheck.rest (hk _)
  case fatal =>
    intro hh hto
    have hcheck := transacted_checkHigh hhalted ho.high hc hh
    rw [hto] at hcheck
    exact ⟨hcheck.host, hcheck.latches, hcheck.issues, hcheck.toSeen, .inr (.inr (State.isHalted_fatal _ _))⟩

/-! ## Cell operations and requests -/

theorem cellStep_transacts (op : CellOp) {k : Word → State → State} (hk : ∀ v, Rest (k v)) :
    Ensures (TransactionStep s) (s.cellStep op k) := by
  have away {c : CmdSt} (h : s.cmdst = c) (hne : c ≠ .check) : s.cmdst ≠ .check := h ▸ hne
  have cmd : s.aligned s.params.e2pCmd := fun hvalid => (params_even hvalid).1
  have data : s.aligned s.params.e2pData := fun hvalid => (params_even hvalid).2.1
  refine State.cellStep_cases _ op k ?prewait ?data ?issue1 ?issue2 ?busy ?check ?read ?stop
  case prewait => exact fun h => .next (poll_transacts hhalted (fun _ => rest_setCmdst _) (away h nofun))
  case data => exact fun h _ => .next (writeRegister_transacts hhalted data _ (rest_setCmdst _) (away h nofun))
  case issue1 => exact fun h => .next (writeRegister_transacts hhalted cmd _ (rest_setCmdst _) (away h nofun))
  case issue2 => exact fun h => .next (writeRegister_transacts hhalted cmd _ (rest_setCmdst _) (away h nofun))
  case busy => exact fun h => .next (poll_transacts hhalted (op.rest_afterBusy hk) (away h nofun))
  case check => exact fun h _ => .next (checkTimeout_transacts hhalted hk h)
  case read => exact fun h _ => .next (readRegister_transacts hhalted data hk (away h nofun))
  case stop => exact .fault _ _

theorem programStep_transacts : Ensures (TransactionStep s) (programStep s) := by
  unfold programStep
  split
  · exact cellStep_transacts hhalted _ (rest_dumpNext .pre (rest_startPhase _ _ _))
  · exact cellStep_transacts hhalted _ fun _ => rest_afterUnlock
  · exact cellStep_transacts hhalted _ fun _ => rest_writeNext
  · exact cellStep_transacts hhalted _ fun _ => rest_afterLock
  · exact cellStep_transacts hhalted _ (rest_dumpNext .post (rest_finishOk 0))
  all_goals exact .fault _ _

theorem macShadowStep_transacts (hc : s.cmdst ≠ .check) : TransactionStep s s.macShadowStep := by
  unfold State.macShadowStep
  split
  · exact readRegister_transacts hhalted (fun hvalid => (params_even hvalid).2.2.2) rest_finishOk hc
  · exact writeRegister_transacts hhalted (fun hvalid => (params_even hvalid).2.2.1) _ (rest_setMacReading _) hc

end Accesses

/-- R104, R105: a transfer goes over the port at a legal offset alone. -/
theorem atOffset_transacts (h : s.aligned s.curOff → s.cmdst ≠ .check → TransactionStep s t) :
    Ensures (TransactionStep s) (atOffset s t) := by
  unfold atOffset
  split
  next => exact .fault _ _
  next hoff =>
    refine .guarded fun hp => .next (h (fun _ => even_of_not_offsetRejected (by simpa using hoff)) (by simp [hp]))

/-- R174: what every transaction step of every request does. -/
theorem exec_running_transacts {i : Instr} (hi : i.space = .request) (hr : s.running i) :
    Ensures (TransactionStep s) (exec i s) := by
  have hhalted : s.halted = false := hr.2.1
  have single (op : CellOp) {k : Word → State → State} (hk : ∀ v, Rest (k v)) :
      Ensures (TransactionStep s) (singleCellStep op k s) := .guarded fun _ => cellStep_transacts hhalted op hk
  have cmd : s.aligned s.params.e2pCmd := fun hvalid => (params_even hvalid).1
  cases i with
  | writeReg off =>
    simp only [exec, execWriteReg]
    exact runRequest_running_ensures hr _ _ (atOffset_transacts fun ho hc =>
      writeRegister_transacts hhalted ho _ (rest_finishOk 0) hc)
  | readReg off =>
    simp only [exec, execReadReg]
    exact runRequest_running_ensures hr _ _ (atOffset_transacts fun ho hc =>
      readRegister_transacts hhalted ho rest_finishOk hc)
  | readMacShadow idx =>
    simp only [exec, execReadMacShadow]
    exact runRequest_running_ensures hr _ _ (.guarded fun h => .next (macShadowStep_transacts hhalted (by simp [h])))
  | waitIdle =>
    simp only [exec, execWaitIdle]
    exact runRequest_running_ensures hr _ _ (.guarded fun h => .next (poll_transacts hhalted rest_finishOk (by simp [h])))
  | submit cmd' addr =>
    simp only [exec, execSubmit]
    refine runRequest_running_ensures hr _ _ ?_
    split
    next h => exact .next (writeRegister_transacts hhalted cmd _ (rest_setCmdst _) (by simp [h]))
    next => exact .guarded fun h => .next (writeRegister_transacts hhalted cmd _ (rest_finishOk 0) (by simp [h]))
  | readCell addr | writeCell addr data | disableWrite =>
    simp only [exec, execReadCell, execWriteCell, execDisableWrite]
    exact runRequest_running_ensures hr _ _ (single _ fun _ => rest_finishOk _)
  | enableWrite =>
    simp only [exec, execEnableWrite]
    exact runRequest_running_ensures hr _ _ (single _ rest_finishOk)
  | dump =>
    simp only [exec, execDump]
    exact runRequest_running_ensures hr _ _ (.guarded fun _ =>
      cellStep_transacts hhalted _ (rest_dumpNext .pre (rest_finishOk 0)))
  | programAddress =>
    simp only [exec, execProgramAddress]
    exact runRequest_running_ensures hr _ _ (programStep_transacts hhalted)
  | _ => cases hi

end Transaction

end Sys2Proof.Machine

/-! PROOFS. The statements about acceptance, the host's writes and the frames of a step (10_state.md, 43_sequencer.md R168,
R174). -/

namespace Sys2Proof.Machine

/-- R78: a READ_CELL's DATA field is reserved, and 0. -/
theorem reqData_readCell (a : Byte) : reqData (encode (.readCell a)) = 0 :=
  BitVec.extractLsb'_append_eq_right (a := 0x6#4 ++ 0#12 ++ a)

/-! ## Acceptance in a step (R168) -/

section Written

variable {s : State} {i : Instr}

/-- A written request is latched and goes nowhere on the device port in its acceptance step, in range or not. -/
theorem exec_accept_latches (hi : i.space = .request) (hready : s.ready = true) :
    ∃ t, exec i s = .next t ∧ s.sameHost t ∧ t.req = encode i ∧ t.curOp = reqOp (encode i) ∧ s.samePort t ∧
      s.sameRecords t := by
  cases hwf : i.wellFormed with
  | true =>
    obtain ⟨hhost, hport, hrecords, hreq, -, -, hop, -⟩ := s.begun_latches i
    exact ⟨_, exec_accept hi hwf hready, hhost, hreq, hop, hport, hrecords⟩
  | false =>
    obtain ⟨f, hexec⟩ := exec_accept_of_not_wellFormed hwf hready
    exact ⟨_, hexec, by simp [State.sameHost, State.samePort, State.sameRecords]⟩

end Written

/-! ## The statements -/

/-- Settles O2: the fetch settles the reset event by itself. -/
theorem resetEventResetsOnlyTheEpb : Obligations.ResetEventResetsOnlyTheEpb := by
  unfold Obligations.ResetEventResetsOnlyTheEpb
  intro s rest hinputs
  simp [step, State.fetch, hinputs, State.resetEvent]

/-- R10 holds of the parameters after power-on, whatever the free constant is. -/
theorem config_params_valid : Config.params.valid = true := by
  unfold Config.params
  split
  next h => exact h
  next => rfl

/-- Settles O3: the reset state is idle and at rest, and its parameters are legal by construction. -/
theorem resetHasInvariant : Obligations.ResetHasInvariant := by
  unfold Obligations.ResetHasInvariant
  exact
    { params := config_params_valid
      window := rfl
      ready := by simp [State.reset]
      halted := by simp [State.reset]
      idle := fun _ => ⟨⟨rfl, rfl, rfl, rfl⟩, .inr ⟨rfl, .inl rfl⟩⟩
      halt := nofun
      running := fun h => absurd rfl h }

/-- Settles O12: in each case the fetch answers the decoded instruction. -/
theorem stepRunsDecodedInstruction : Obligations.StepRunsDecodedInstruction := by
  unfold Obligations.StepRunsDecodedInstruction
  refine ⟨fun s q rest i hinputs hready hdecode => step_writeReq_ok hinputs hready hdecode, ?running, ?command, ?indirect⟩
  case running =>
    intro s i hready hhalted hdecode
    have hrunning : s.fetchRunning = .instr i s := by simp [State.fetchRunning, hready, hhalted, hdecode]
    refine ⟨fun hinputs => ?_, fun rest hinputs => ?_, fun rest hinputs => ?_⟩
    · simp [step, State.fetch, hinputs, hrunning]
    · simp [step, State.fetch, State.fetchRunning, hinputs, hready, hhalted, hdecode]
    · simp [step, State.fetch, hinputs, hready, hhalted, hrunning]
  case command | indirect =>
    intro s w rest hinputs
    simp [step, State.fetch, hinputs]

/-- Settles O13: a written request is fetched only where READY is 1; there it is latched by the decoder's rejection or by its
acceptance step. -/
theorem requestAcceptedOnlyWhenReady : Obligations.RequestAcceptedOnlyWhenReady := by
  unfold Obligations.RequestAcceptedOnlyWhenReady
  intro s q rest hinputs
  refine ⟨fun hready => by simp [step, State.fetch, State.fetchRequest, hinputs, hready],
    fun hready => ⟨?latched, fun op hop hbits => ?starts⟩⟩
  case starts => exact step_writeReq_ok hinputs hready (decodeReq_eq_ok_iff.mpr ⟨op, rfl, hbits⟩)
  case latched =>
    cases hdecode : decodeReq q with
    | ok i =>
      obtain ⟨t, hexec, -, hreq, hop, hport, -⟩ :=
        exec_accept_latches (s := { s with inputs := rest }) (decodeIn_space .request q i hdecode) hready
      rw [encode_of_decodeReq hdecode] at hreq hop
      exact ⟨t, (step_writeReq_ok hinputs hready hdecode).trans hexec, hreq, hop, hport⟩
    | error r =>
      obtain ⟨-, -, hname⟩ := rejectedRequestWords q
      rcases hname r hdecode with rfl | rfl
      · exact ⟨_, step_writeReq_badOp hinputs hready hdecode, by simp [State.samePort]⟩
      · exact ⟨_, step_writeReq_badArg hinputs hready hdecode, by simp [State.samePort]⟩

/-- Settles O16: `State.begun_latches` says what every acceptance does, and each request's own start says the rest. -/
theorem acceptanceLatchesAndKeeps : Obligations.AcceptanceLatchesAndKeeps := by
  unfold Obligations.AcceptanceLatchesAndKeeps
  intro i s hi hwf hready hhalted
  obtain ⟨hhost, hport, hrecords, -, -, -, hop, hopst, hval, hmac, hhalf, hres, hout, hlatch⟩ := s.begun_latches i
  refine ⟨s.begun i, exec_accept hi hwf hready, s.begun_running i hhalted, hop, hopst.trans hop.symm, hval, hmac, hhalf,
    hhost, hport, hrecords, hres, hout, hlatch, ?_⟩
  cases i with
  | writeReg _ | readReg _ | readMacShadow _ | waitIdle | submit _ _ | readCell _ | enableWrite | writeCell _ _
  | disableWrite | dump | programAddress =>
    simp [State.begun, beginRequest, formatOf, startSingleCell, CellOp.cmd, reqData_readCell]
  | _ => cases hi

/-- Settles O17: without a pending input the fetch settles the state as it is. -/
theorem noStepWithoutRequest : Obligations.NoStepWithoutRequest := by
  unfold Obligations.NoStepWithoutRequest
  intro s hinputs hrest
  have hidle : (s.ready || s.halted) = true := by simpa using hrest
  simp [step, State.fetch, State.fetchRunning, hinputs, hidle]

/-- Settles O60: the fetch settles both writes; a byte of ARG_MAC is one element of a vector. -/
theorem hostArgumentWritesStore : Obligations.HostArgumentWritesStore := by
  unfold Obligations.HostArgumentWritesStore
  refine ⟨fun s v rest hinputs => by simp [step, State.fetch, hinputs], fun s j b rest hinputs => ?_⟩
  refine ⟨{ s with inputs := rest, argMac := s.argMac.set j.val b j.isLt }, by simp [step, State.fetch, hinputs], rfl, ?_,
    fun k hk => ?_⟩
  · exact Vector.getElem_set_self _
  · exact Vector.getElem_set_ne j.isLt k.isLt (fun h => hk (Fin.ext h.symm))

/-- Settles O18: `exec_running_transacts` says all of it of every transaction step. -/
theorem transactionStepFrame : Obligations.TransactionStepFrame := by
  unfold Obligations.TransactionStepFrame
  intro i s t hi hr h
  obtain ⟨hhost, hlatches, ⟨e, htrace, -, hread, hwrite⟩, -, -⟩ := exec_running_transacts hi hr t h
  exact ⟨hhost, hlatches, e, htrace, hread, hwrite⟩

/-- Settles O23: `exec_running_transacts` says that RES moves with the finish alone. -/
theorem resWrittenOnlyAtFinish : Obligations.ResWrittenOnlyAtFinish := by
  unfold Obligations.ResWrittenOnlyAtFinish
  intro i s t hi hr h hres
  exact (exec_running_transacts hi hr t h).res.resolve_left hres

/-- Settles O19: a step issues nothing, or one transaction at an aligned offset, or, for a word of the device port, the two
halves of an aligned register. -/
theorem everyTransactionIsAligned : Obligations.EveryTransactionIsAligned := by
  unfold Obligations.EveryTransactionIsAligned
  intro s t hinv h
  have hvalid := hinv.params
  have nothing (htrace : t.trace = s.trace) :
      ∃ es, t.trace = s.trace ++ es ∧ es.length ≤ 2 ∧ ∀ e ∈ es, e.off.toNat % 2 = 0 := ⟨[], by simp [htrace]⟩
  cases h ▸ step_stepped s with
  | settled host hr => cases hr; exact nothing rfl
  | reset rest head hr => cases hr; exact nothing rfl
  | rejected q c ins hready hc hr => cases hr; exact nothing (by simp)
  | stopped f e _ _ _ hr => cases hr
  | accepted i ins hready hi hr =>
    obtain ⟨u, hexec, -, -, -, ⟨-, -, htrace⟩, -⟩ := exec_accept_latches (s := { s with inputs := ins }) hi hready
    cases hr.trans hexec
    exact nothing htrace
  | running i ins hi hdecode hrun hr =>
    obtain ⟨e, htrace, heven, -, -⟩ := (exec_running_transacts (s := { s with inputs := ins }) hi hrun t hr.symm).issues
    exact ⟨[e], htrace, by simp, by simpa using heven hvalid⟩
  | word i ins head hi hr =>
    obtain ⟨o, v, ho, hexec⟩ := exec_word hi { s with inputs := ins }
    have heven : s.aligned o := fun h => by rcases ho with rfl | rfl <;> simp [params_even h]
    cases hr.trans hexec
    refine ⟨[.write o (loHalf v), .write (o + 2) (hiHalf v)], by rw [writeWord_eq], Nat.le_refl 2, ?_⟩
    simpa [BusEvent.off] using And.intro (heven hvalid) (heven.high hvalid)

/-- Settles O21: TO moves with a transaction step alone, and `exec_running_transacts` says what such a step makes of it. -/
theorem timeoutSeenOnlyByCheck : Obligations.TimeoutSeenOnlyByCheck := by
  unfold Obligations.TimeoutSeenOnlyByCheck
  refine ⟨fun s t hinv h hne => ?_, fun i s t hi _ hr h hc hh => ?_⟩
  · have absent (hsame : t.toSeen = s.toSeen) : False := hne hsame
    cases h ▸ step_stepped s with
    | settled host hr => cases hr; exact (absent rfl).elim
    | reset rest head hr => exact .inl ⟨rest, head⟩
    | rejected q c ins hready hc hr => cases hr; exact (absent (by simp)).elim
    | stopped f e _ _ _ hr => cases hr
    | accepted i ins hready hi hr =>
      obtain ⟨u, hexec, -, -, -, -, -, -, -, hsame⟩ := exec_accept_latches (s := { s with inputs := ins }) hi hready
      cases hr.trans hexec
      exact (absent hsame).elim
    | running i ins hi hdecode hrun hr =>
      have hto := (exec_running_transacts (s := { s with inputs := ins }) hi hrun t hr.symm).toSeen
      split at hto
      next hcheck => exact .inr ⟨hrun.1, hcheck.1, hcheck.2, hto⟩
      next => exact (absent hto).elim
    | word i ins head hi hr =>
      obtain ⟨o, v, -, hexec⟩ := exec_word hi { s with inputs := ins }
      cases hr.trans hexec
      exact (absent rfl).elim
  · rw [(exec_running_transacts hi hr t h).toSeen, if_pos ⟨hc, hh⟩]

/-- Settles O50: a halted EPB is not ready and runs no request, so its step settles a host's action or nothing. -/
theorem haltedUntilReset : Obligations.HaltedUntilReset := by
  unfold Obligations.HaltedUntilReset
  intro s t hinv hhalted h hreset hcommand hindirect
  have hnotReady : s.ready ≠ true := fun hready => by
    have := hinv.ready.mp hready
    rw [hinv.halted.mp hhalted] at this
    cases this
  cases h ▸ step_stepped s with
  | settled host hr => cases hr; rfl
  | reset rest head hr => exact absurd head (hreset rest)
  | rejected q c ins hready hc hr => exact absurd hready hnotReady
  | accepted i ins hready hi hr => exact absurd hready hnotReady
  | running i ins hi hdecode hrun hr =>
    obtain ⟨-, hnotHalted, -⟩ := hrun
    simp [hhalted] at hnotHalted
  | word i ins head hi hr =>
    rcases head with ⟨w, head⟩ | ⟨x, head⟩
    · exact absurd head (hcommand w ins)
    · exact absurd head (hindirect x ins)
  | stopped f e _ _ _ hr => cases hr

end Sys2Proof.Machine

/-! PROOFS. The command FSM (43_sequencer.md R172): what a transaction of a cell operation leads to, and which request
performs which operation in which phase. -/

namespace Sys2Proof.Machine

/-! ## One transaction of a cell operation -/

/-- Where an operation goes from the last poll of its post-wait (R172); none where that ends it. -/
def CellOp.afterPostwait : CellOp → Option CmdSt
  | .read => some .read
  | .unlock => some .check
  | .write => none
  | .lock => none

/-- The point to which the high half of the transaction at `s` leads (R172); none where it ends the operation. -/
def CellOp.nextPoint (op : CellOp) (s : State) : Option CmdSt :=
  match s.cmdst with
  | .prewait => some (if busyBit s.cmdValue then .prewait else op.afterPrewait)
  | .data => some .issue1
  | .issue1 => some .issue2
  | .issue2 => some .busy
  | .busy => if busyBit s.cmdValue then some .busy else op.afterPostwait
  | .check | .read | .idle | .complete | .timeout | .xfer => none

theorem CellOp.hasPoint_nextPoint {op : CellOp} {s : State} {c : CmdSt} (hp : op.hasPoint s.cmdst = true)
    (hc : op.nextPoint s = some c) : op.hasPoint c = true := by
  unfold CellOp.nextPoint at hc
  split at hc
  case h_1 => cases hc; split <;> cases op <;> rfl
  case h_5 =>
    split at hc
    · cases hc; rfl
    · cases op <;> cases hc <;> rfl
  case h_2 | h_3 | h_4 => cases hc; rfl
  all_goals cases hc

/-- Everything a transaction of the operation `op`, followed by `k`, can do: its low half stays at the point, its high half
moves to the next point or ends the operation, with the check of `enableWrite` before the end (R124, R142). -/
inductive CellNext (op : CellOp) (k : Word → State → State) (s t : State) : Prop
  | low (m : PortSide) (hhalf : s.half = false) (hm : m.half = true) (ht : t = s.placed s.cmdst m)
  | moves (c : CmdSt) (m : PortSide) (hhalf : s.half = true) (hm : m.half = false) (hc : op.nextPoint s = some c)
      (ht : t = s.placed c m)
  | ends (v : Word) (m : PortSide) (hhalf : s.half = true) (hm : m.half = false) (hc : op.nextPoint s = none)
      (hop : op ≠ .unlock) (ht : t = k v (s.placed s.cmdst m))
  | checked (m : PortSide) (hhalf : s.half = true) (hm : m.half = false) (hcmd : m.lastCmd = s.cmdValue)
      (hc : s.cmdst = .check) (hop : op = .unlock)
      (ht : t = afterCheck k s.cmdValue ((s.placed s.cmdst m).setTo (timeoutBit s.cmdValue)))

section CellNext

variable {s : State} {op : CellOp} {k : Word → State → State}

theorem writeHalf_eq_placed (o : Offset) (v : Half) (b : Bool) :
    (s.portWrite o v).setHalf b = s.placed s.cmdst (s.portSide.wrote s.params o v b) := rfl

theorem readLow_eq_placed (o : Offset) :
    ((s.portRead o).setLatch (s.readValue o)).setHalf true =
      s.placed s.cmdst (s.portSide.got s.params o (s.readValue o) (s.readValue o) true) := rfl

theorem readHigh_eq_placed (o : Offset) :
    (s.portRead o).setHalf false =
      s.placed s.cmdst (s.portSide.got s.params o (s.readValue o) s.latchLo false) := rfl

theorem pollHigh_eq_placed (o : Offset) (v : Word) :
    ((s.portRead o).setHalf false).setLastCmd v =
      s.placed s.cmdst ((s.portSide.got s.params o (s.readValue o) s.latchLo false).setLastCmd v) := rfl

theorem setCmdst_placed (c c' : CmdSt) (m : PortSide) : (s.placed c m).setCmdst c' = s.placed c' m := rfl

/-- A register write whose high half leads to the point `c`. -/
theorem CellNext.write {c : CmdSt} (o : Offset) (v : Word) (hc : op.nextPoint s = some c) :
    CellNext op k s (s.writeRegister o v (State.setCmdst c)) :=
  State.writeRegister_cases (CellNext op k s) o v _
    (fun hl => .low _ hl rfl (writeHalf_eq_placed _ _ _))
    (fun hh => .moves c _ hh rfl hc (by rw [writeHalf_eq_placed, setCmdst_placed]))

/-- R172: at each of the operation's points its transaction leads to the next one or ends it. -/
theorem cellStep_next (k : Word → State → State) (hp : op.hasPoint s.cmdst = true) :
    ∃ t, s.cellStep op k = .next t ∧ CellNext op k s t := by
  unfold State.cellStep
  split
  next hc =>
    refine ⟨_, rfl, State.poll_cases (CellNext op k s) _ (fun hl => ?_) (fun hh hb => ?_) (fun hh hb => ?_)⟩
    · exact .low _ hl rfl (readLow_eq_placed _)
    · exact .moves .prewait _ hh rfl (by simp [CellOp.nextPoint, hc, hb]) (by rw [pollHigh_eq_placed, hc])
    · exact .moves op.afterPrewait _ hh rfl (by simp [CellOp.nextPoint, hc, hb])
        (by rw [pollHigh_eq_placed, setCmdst_placed])
  next hc =>
    rw [hc] at hp
    rw [if_pos (of_decide_eq_true hp)]
    exact ⟨_, rfl, .write _ _ (by simp [CellOp.nextPoint, hc])⟩
  next hc => exact ⟨_, rfl, .write _ _ (by simp [CellOp.nextPoint, hc])⟩
  next hc => exact ⟨_, rfl, .write _ _ (by simp [CellOp.nextPoint, hc])⟩
  next hc =>
    refine ⟨_, rfl, State.poll_cases (CellNext op k s) _ (fun hl => ?_) (fun hh hb => ?_) (fun hh hb => ?_)⟩
    · exact .low _ hl rfl (readLow_eq_placed _)
    · exact .moves .busy _ hh rfl (by simp [CellOp.nextPoint, hc, hb]) (by rw [pollHigh_eq_placed, hc])
    · rw [pollHigh_eq_placed]
      have hnext : op.nextPoint s = op.afterPostwait := by simp [CellOp.nextPoint, hc, hb]
      cases op with
      | read => exact .moves .read _ hh rfl hnext (setCmdst_placed _ _ _)
      | unlock => exact .moves .check _ hh rfl hnext (setCmdst_placed _ _ _)
      | write => exact .ends _ _ hh rfl hnext nofun rfl
      | lock => exact .ends _ _ hh rfl hnext nofun rfl
  next hc =>
    rw [hc] at hp
    obtain rfl := of_decide_eq_true hp
    rw [if_pos rfl]
    refine ⟨_, rfl, State.checkTimeout_cases (CellNext .unlock k s) _ (fun hl => ?_) (fun hh hto => ?_) (fun hh hto => ?_)⟩
    · exact .low _ hl rfl (readLow_eq_placed _)
    · exact .checked _ hh rfl rfl hc rfl (by rw [afterCheck, hto, if_pos rfl, pollHigh_eq_placed])
    · exact .checked _ hh rfl rfl hc rfl (by rw [afterCheck, hto, if_neg Bool.false_ne_true, pollHigh_eq_placed])
  next hc =>
    rw [hc] at hp
    obtain rfl := of_decide_eq_true hp
    rw [if_pos rfl]
    refine ⟨_, rfl, State.readRegister_cases (CellNext .read k s) _ _ (fun hl => ?_) (fun hh => ?_)⟩
    · exact .low _ hl rfl (readLow_eq_placed _)
    · exact .ends _ _ hh rfl (by simp [CellOp.nextPoint, hc]) nofun (by rw [readHigh_eq_placed])
  all_goals
    next hc =>
      rw [hc] at hp
      cases hp

end CellNext

/-! ## Which request performs which operation in which phase -/

theorem performs_single {i : Instr} {op : CellOp} {k : Word → State → State}
    (h : ∀ s : State, s.running i → exec i s = singleCellStep op k s) : Performs i .single op k :=
  fun s hs hq => (h s hs).trans (if_pos hq)

theorem performs_readCell (a : Byte) :
    Performs (.readCell a) .single .read (fun d t => t.finishOk (dataWord (dataByte d))) :=
  performs_single fun _ ⟨hready, hhalted, hreq⟩ => State.runRequest_running _ _ _ _ hready hhalted hreq

theorem performs_enableWrite : Performs .enableWrite .single .unlock (fun v t => t.finishOk v) :=
  performs_single fun _ ⟨hready, hhalted, hreq⟩ => State.runRequest_running _ _ _ _ hready hhalted hreq

theorem performs_writeCell (a d : Byte) : Performs (.writeCell a d) .single .write (fun _ t => t.finishOk 0) :=
  performs_single fun _ ⟨hready, hhalted, hreq⟩ => State.runRequest_running _ _ _ _ hready hhalted hreq

theorem performs_disableWrite : Performs .disableWrite .single .lock (fun _ t => t.finishOk 0) :=
  performs_single fun _ ⟨hready, hhalted, hreq⟩ => State.runRequest_running _ _ _ _ hready hhalted hreq

theorem performs_dump : Performs .dump .dumpPre .read (dumpNext Image.pre.set (fun u => u.finishOk 0)) :=
  fun _ ⟨hready, hhalted, hreq⟩ hq => by
    simp only [exec, execDump]
    rw [State.runRequest_running _ _ _ _ hready hhalted hreq]
    exact if_pos hq

theorem exec_waitIdle_running {s : State} (hr : s.running .waitIdle) (hp : s.pointOf .waitIdle) :
    exec .waitIdle s = .next (s.poll (fun v u => u.finishOk v)) := by
  obtain ⟨hready, hhalted, hreq⟩ := hr
  obtain ⟨hseqst, hcmdst, -⟩ := hp
  simp only [exec, execWaitIdle]
  rw [State.runRequest_running _ _ _ _ hready hhalted hreq, if_pos ⟨hseqst, hcmdst⟩]

end Sys2Proof.Machine

/-! PROOFS. The invariant (10_state.md section 3, 43_sequencer.md R170 to R173): a transaction step goes on at a point of its
request or ends it, so the machine never stops and every step keeps the invariant. -/

namespace Sys2Proof.Machine

/-! ## The cell operations of a request, phase by phase -/

/-- In phase `q` the request `i` runs the cell operation `op`, and then `k` (R141 to R147, R161, R162). -/
inductive CellPhase : Instr → SeqSt → CellOp → (Word → State → State) → Prop
  | readCell (a : Byte) : CellPhase (.readCell a) .single .read (fun d t => t.finishOk (dataWord (dataByte d)))
  | enableWrite : CellPhase .enableWrite .single .unlock (fun v t => t.finishOk v)
  | writeCell (a d : Byte) : CellPhase (.writeCell a d) .single .write (fun _ t => t.finishOk 0)
  | disableWrite : CellPhase .disableWrite .single .lock (fun _ t => t.finishOk 0)
  | dump : CellPhase .dump .dumpPre .read (dumpNext Image.pre.set (fun u => u.finishOk 0))
  | dumpPre : CellPhase .programAddress .dumpPre .read (dumpNext Image.pre.set afterDumpPre)
  | unlock : CellPhase .programAddress .unlock .unlock (fun _ => afterUnlock)
  | write : CellPhase .programAddress .write .write (fun _ u => writeNext u)
  | lock : CellPhase .programAddress .lock .lock (fun _ => afterLock)
  | dumpPost : CellPhase .programAddress .dumpPost .read (dumpNext Image.post.set (fun u => u.finishOk 0))

section Phases

variable {i : Instr} {q : SeqSt} {op : CellOp} {k : Word → State → State} {s t u : State}

theorem CellPhase.performs (h : CellPhase i q op k) : Performs i q op k := by
  cases h with
  | readCell a => exact performs_readCell a
  | enableWrite => exact performs_enableWrite
  | writeCell a d => exact performs_writeCell a d
  | disableWrite => exact performs_disableWrite
  | dump => exact performs_dump
  | dumpPre => exact performs_dumpPre
  | unlock => exact performs_unlock
  | write => exact performs_write
  | lock => exact performs_lock
  | dumpPost => exact performs_dumpPost

theorem State.pointOf.program_phase (hp : s.pointOf .programAddress) : ∃ op k, CellPhase .programAddress s.seqst op k := by
  obtain ⟨-, ⟨hq | hq, -⟩ | ⟨hq, -⟩ | ⟨hq, -⟩ | ⟨hq, -⟩⟩ := hp
  · exact ⟨_, _, by rw [hq]; exact .dumpPre⟩
  · exact ⟨_, _, by rw [hq]; exact .dumpPost⟩
  · exact ⟨_, _, by rw [hq]; exact .unlock⟩
  · exact ⟨_, _, by rw [hq]; exact .write⟩
  · exact ⟨_, _, by rw [hq]; exact .lock⟩

/-! ## The registers of a point (R28) -/

theorem pointOf_dumpPre (h : s.seqst = .dumpPre) :
    s.pointOf .programAddress ↔
      s.macReading = false ∧ CellOp.read.hasPoint s.cmdst = true ∧ s.curAddr = cellAddr s.cell ∧ s.curCmd = .read := by
  simp [State.pointOf, h]

theorem pointOf_unlock (h : s.seqst = .unlock) :
    s.pointOf .programAddress ↔
      s.macReading = false ∧ CellOp.unlock.hasPoint s.cmdst = true ∧ s.cell = 0 ∧ s.curCmd = .ewen := by
  simp [State.pointOf, h]

theorem pointOf_write (h : s.seqst = .write) :
    s.pointOf .programAddress ↔
      s.macReading = false ∧ CellOp.write.hasPoint s.cmdst = true ∧ s.cell.toNat ≤ 6 ∧ s.curAddr = cellAddr s.cell ∧
        s.curData = programByte s.curMac s.cell ∧ s.curCmd = .write := by
  simp [State.pointOf, h]

theorem pointOf_lock (h : s.seqst = .lock) :
    s.pointOf .programAddress ↔
      s.macReading = false ∧ CellOp.lock.hasPoint s.cmdst = true ∧ s.cell = 0 ∧ s.curCmd = .ewds := by
  simp [State.pointOf, h]

theorem pointOf_dumpPost (h : s.seqst = .dumpPost) :
    s.pointOf .programAddress ↔
      s.macReading = false ∧ CellOp.read.hasPoint s.cmdst = true ∧ s.curAddr = cellAddr s.cell ∧ s.curCmd = .read := by
  simp [State.pointOf, h]

theorem CellPhase.hasPoint (h : CellPhase i q op k) (hp : s.pointOf i) (hq : s.seqst = q) :
    op.hasPoint s.cmdst = true := by
  cases h with
  | readCell a | enableWrite | writeCell a d | disableWrite | dump => exact hp.2.1
  | dumpPre => exact ((pointOf_dumpPre hq).mp hp).2.1
  | unlock => exact ((pointOf_unlock hq).mp hp).2.1
  | write => exact ((pointOf_write hq).mp hp).2.1
  | lock => exact ((pointOf_lock hq).mp hp).2.1
  | dumpPost => exact ((pointOf_dumpPost hq).mp hp).2.1

/-- Inside an operation only CMDST and the port's registers move. -/
theorem CellPhase.pointOf_placed (h : CellPhase i q op k) (hp : s.pointOf i) (hq : s.seqst = q) {c : CmdSt}
    (hc : op.hasPoint c = true) (m : PortSide) : (s.placed c m).pointOf i := by
  have hq' : (s.placed c m).seqst = q := hq
  cases h with
  | readCell a | enableWrite | writeCell a d | disableWrite | dump =>
    obtain ⟨hq, -, hrest⟩ := hp
    exact ⟨hq, hc, hrest⟩
  | dumpPre =>
    obtain ⟨hm, -, hrest⟩ := (pointOf_dumpPre hq).mp hp
    exact (pointOf_dumpPre hq').mpr ⟨hm, hc, hrest⟩
  | unlock =>
    obtain ⟨hm, -, hrest⟩ := (pointOf_unlock hq).mp hp
    exact (pointOf_unlock hq').mpr ⟨hm, hc, hrest⟩
  | write =>
    obtain ⟨hm, -, hrest⟩ := (pointOf_write hq).mp hp
    exact (pointOf_write hq').mpr ⟨hm, hc, hrest⟩
  | lock =>
    obtain ⟨hm, -, hrest⟩ := (pointOf_lock hq).mp hp
    exact (pointOf_lock hq').mpr ⟨hm, hc, hrest⟩
  | dumpPost =>
    obtain ⟨hm, -, hrest⟩ := (pointOf_dumpPost hq).mp hp
    exact (pointOf_dumpPost hq').mpr ⟨hm, hc, hrest⟩

/-! ## Where a transaction step of a request leads -/

/-- A transaction step of `i` from `s` goes on at a point of `i`, finishes it, or halts with the records of R193. -/
inductive Advances (i : Instr) (s t : State) : Prop
  | goesOn (hrun : t.running i) (hp : t.pointOf i) (hopst : t.opst = s.opst)
  | finishes (hok : t.isOk) (hmac : t.macReading = false)
  | halts (hhalted : t.isHalted) (hok : t.haltedOk)

theorem Advances.of_opst (h : Advances i u t) (hopst : u.opst = s.opst) : Advances i s t := by
  cases h with
  | goesOn hrun hp h => exact .goesOn hrun hp (h.trans hopst)
  | finishes hok hmac => exact .finishes hok hmac
  | halts hhalted hok => exact .halts hhalted hok

theorem Advances.finishOk (v : Word) (hrun : u.running i) : Advances i u (u.finishOk v) :=
  .finishes (State.isOk_finishOk v hrun.2.1) (by simp)

/-- After `setImg` at its cell, a dump goes to the next cell or to `j`, at a point of `i`. -/
theorem Advances.dumpNext (im : Image) {j : State → State} (hrun : u.running i)
    (hnext : ((im.set u.cell (dataByte v) u).startSeqCell .read (u.cell + 1)).pointOf i)
    (hlast : Advances i u (j (im.set u.cell (dataByte v) u))) : Advances i u (dumpNext im.set j v u) := by
  unfold Machine.dumpNext
  split
  · exact hlast
  · exact .goesOn (by cases im <;> simpa [Image.set, State.running] using hrun) hnext (by cases im <;> simp [Image.set])

theorem writeNext_pointOf (hp : u.pointOf .programAddress) (hq : u.seqst = .write) :
    (writeNext u).pointOf .programAddress := by
  obtain ⟨hmac, -⟩ := (pointOf_write hq).mp hp
  unfold writeNext
  split
  next hcell =>
    have hsucc : (u.cell + 1).toNat = u.cell.toNat + 1 := by bv_omega
    have hne : u.cell + 1 ≠ 0 := by bv_omega
    have hbyte : macByte u.curMac u.cell.toNat = programByte u.curMac (u.cell + 1) := by
      rw [programByte, if_neg hne, hsucc, Nat.add_sub_cancel]
    exact (pointOf_write (by simpa using hq)).mpr ⟨by simpa using hmac, by simp [CellOp.hasPoint],
      by rw [State.startSeqWrite_cell, hsucc]; omega, by simp, by simpa using hbyte, by simp⟩
  next => exact (pointOf_lock (by simp)).mpr (by simp [hmac, CellOp.hasPoint, CellOp.cmd])

theorem writeNext_keeps (u : State) : (writeNext u).req = u.req ∧ (writeNext u).ready = u.ready ∧
    (writeNext u).halted = u.halted ∧ (writeNext u).opst = u.opst := by
  unfold writeNext
  split
  · simp
  · simp

/-- What follows an operation goes on at a point of the request or finishes it (R169, R173). -/
theorem CellPhase.advances (h : CellPhase i q op k) (hrun : u.running i) (hp : u.pointOf i) (hq : u.seqst = q) (v : Word) :
    Advances i u (k v u) := by
  cases h with
  | readCell a | enableWrite | writeCell a d | disableWrite => exact .finishOk _ hrun
  | dump =>
    obtain ⟨-, -, -, -, hmac⟩ := hp
    exact .dumpNext .pre hrun
      (by simp [State.pointOf, Image.set, CellOp.hasPoint, CellOp.cmd, hq, hmac])
      (.finishes (State.isOk_finishOk _ hrun.2.1) (by simp))
  | dumpPre =>
    obtain ⟨hmac, -⟩ := (pointOf_dumpPre hq).mp hp
    exact .dumpNext .pre hrun
      ((pointOf_dumpPre (by simpa [Image.set] using hq)).mpr (by simp [Image.set, CellOp.hasPoint, CellOp.cmd, hmac]))
      (.goesOn (by simpa [State.running, afterDumpPre, Image.set] using hrun)
        ((pointOf_unlock (by simp [afterDumpPre])).mpr
          (by simp [afterDumpPre, Image.set, CellOp.hasPoint, CellOp.cmd, hmac]))
        (by simp [afterDumpPre, Image.set]))
  | unlock =>
    obtain ⟨hmac, -⟩ := (pointOf_unlock hq).mp hp
    exact .goesOn (by simpa [State.running, afterUnlock] using hrun)
      ((pointOf_write (by simp [afterUnlock])).mpr
        (by simp [afterUnlock, CellOp.hasPoint, programByte, hmac]))
      (by simp [afterUnlock])
  | write =>
    obtain ⟨hreq, hready, hhalted, hopst⟩ := writeNext_keeps u
    obtain ⟨uready, uhalted, ureq⟩ := hrun
    exact .goesOn ⟨hready.trans uready, hhalted.trans uhalted, hreq.trans ureq⟩ (writeNext_pointOf hp hq) hopst
  | lock =>
    obtain ⟨hmac, -⟩ := (pointOf_lock hq).mp hp
    exact .goesOn (by simpa [State.running, afterLock] using hrun)
      ((pointOf_dumpPost (by simp [afterLock])).mpr (by simp [afterLock, CellOp.hasPoint, CellOp.cmd, hmac]))
      (by simp [afterLock])
  | dumpPost =>
    obtain ⟨hmac, -⟩ := (pointOf_dumpPost hq).mp hp
    exact .dumpNext .post hrun
      ((pointOf_dumpPost (by simpa [Image.set] using hq)).mpr (by simp [Image.set, CellOp.hasPoint, CellOp.cmd, hmac]))
      (.finishes (State.isOk_finishOk _ hrun.2.1) (by simp))

theorem Advances.afterCheck (hcmd : u.lastCmd = v) (hto : u.toSeen = timeoutBit v)
    (h : Advances i u (k v u)) : Advances i u (afterCheck k v u) := by
  unfold Machine.afterCheck
  split
  next hfatal => exact .halts (State.isHalted_fatal v u) (by simp [State.haltedOk, State.atRest, hto, hcmd, hfatal])
  next => exact h

/-- R172: a transaction of a cell operation in its phase. -/
theorem CellPhase.step_advances (h : CellPhase i q op k) (hrun : s.running i) (hp : s.pointOf i) (hq : s.seqst = q) :
    ∃ t, exec i s = .next t ∧ Advances i s t := by
  have hpoint := h.hasPoint hp hq
  have stays {c : CmdSt} (hc : op.hasPoint c = true) (m : PortSide) : Advances i s (s.placed c m) :=
    .goesOn hrun (h.pointOf_placed hp hq hc m) rfl
  rw [h.performs s hrun hq]
  obtain ⟨t, hstep, hnext⟩ := cellStep_next k hpoint
  refine ⟨t, hstep, ?_⟩
  cases hnext with
  | low m _ _ ht => exact ht ▸ stays hpoint m
  | moves c m _ _ hc ht => exact ht ▸ stays (CellOp.hasPoint_nextPoint hpoint hc) m
  | ends v m _ _ _ _ ht =>
    have hends := h.advances (u := s.placed s.cmdst m) hrun (h.pointOf_placed hp hq hpoint m) hq v
    exact ht ▸ hends.of_opst rfl
  | checked m _ _ hcmd _ _ ht =>
    have hp' := h.pointOf_placed hp hq hpoint m
    have hgoes := h.advances (u := (s.placed s.cmdst m).setTo (timeoutBit s.cmdValue)) hrun hp' hq s.cmdValue
    have hchecked := Advances.afterCheck (u := (s.placed s.cmdst m).setTo (timeoutBit s.cmdValue)) hcmd rfl hgoes
    exact ht ▸ hchecked.of_opst rfl

/-! ## The other requests -/

/-- A low half, and a poll that sees BUSY, move nothing of the program point but HALF. -/
theorem Advances.stays (hrun : s.running i) (hp : s.pointOf i) (m : PortSide) : Advances i s (s.placed s.cmdst m) := by
  refine .goesOn hrun ?_ rfl
  cases i with
  | _ => exact hp

theorem writeRegister_advances (o : Offset) (w : Word) {j : State → State} (hrun : s.running i) (hp : s.pointOf i)
    (h : ∀ m, Advances i (s.placed s.cmdst m) (j (s.placed s.cmdst m))) : Advances i s (s.writeRegister o w j) :=
  State.writeRegister_cases (Advances i s) o w j
    (fun _ => .stays hrun hp (s.portSide.wrote s.params o (loHalf w) true))
    (fun _ => (h (s.portSide.wrote s.params (o + 2) (hiHalf w) false)).of_opst rfl)

theorem readRegister_advances (o : Offset) {j : Word → State → State} (hrun : s.running i) (hp : s.pointOf i)
    (h : ∀ v m, Advances i (s.placed s.cmdst m) (j v (s.placed s.cmdst m))) : Advances i s (s.readRegister o j) :=
  State.readRegister_cases (Advances i s) o j
    (fun _ => .stays hrun hp (s.portSide.got s.params o (s.readValue o) (s.readValue o) true))
    (fun _ => (h _ (s.portSide.got s.params (o + 2) (s.readValue (o + 2)) s.latchLo false)).of_opst rfl)

/-- R172, R173, R174: from a point of its request a transaction step does not stop, and leads to a point or the end. -/
theorem exec_advances (hwf : i.wellFormed = true) (hrun : s.running i) (hp : s.pointOf i) :
    ∃ t, exec i s = .next t ∧ Advances i s t := by
  have finish (v : Word) (m : PortSide) : Advances i (s.placed s.cmdst m) ((s.placed s.cmdst m).finishOk v) :=
    .finishOk v hrun
  cases i with
  | writeReg off =>
    obtain ⟨hq, hc, -, hoff, -⟩ := id hp
    exact ⟨_, exec_writeReg_transferring hwf ⟨hrun, hq, hc⟩ hoff, writeRegister_advances _ _ hrun hp (finish 0)⟩
  | readReg off =>
    obtain ⟨hq, hc, -, hoff, -⟩ := id hp
    exact ⟨_, exec_readReg_transferring hwf ⟨hrun, hq, hc⟩ hoff, readRegister_advances _ hrun hp finish⟩
  | readMacShadow idx =>
    obtain ⟨hq, hc, -⟩ := id hp
    refine ⟨_, exec_readMacShadow_transferring ⟨hrun, hq, hc⟩ rfl, ?_⟩
    unfold State.macShadowStep
    split
    · exact readRegister_advances _ hrun hp finish
    · exact writeRegister_advances _ _ hrun hp fun m => .goesOn hrun hp rfl
  | waitIdle =>
    refine ⟨_, exec_waitIdle_running hrun hp, readRegister_advances _ hrun hp fun v m => ?_⟩
    split
    · exact .goesOn hrun hp rfl
    · exact (finish v (m.setLastCmd v)).of_opst rfl
  | submit c a =>
    obtain ⟨hq, hc, hrest⟩ := id hp
    obtain ⟨-, hcmd, haddr, -⟩ := id hrest
    rcases hc with hc | hc
    · exact ⟨_, exec_submit_issue1 ⟨hrun, hq, hc, hcmd, haddr⟩,
        writeRegister_advances _ _ hrun hp fun m => .goesOn hrun ⟨hq, .inr rfl, hrest⟩ rfl⟩
    · exact ⟨_, exec_submit_issue2 ⟨hrun, hq, hc, hcmd, haddr⟩, writeRegister_advances _ _ hrun hp (finish 0)⟩
  | readCell a => exact (CellPhase.readCell a).step_advances hrun hp hp.1
  | enableWrite => exact CellPhase.enableWrite.step_advances hrun hp hp.1
  | writeCell a d => exact (CellPhase.writeCell a d).step_advances hrun hp hp.1
  | disableWrite => exact CellPhase.disableWrite.step_advances hrun hp hp.1
  | dump => exact CellPhase.dump.step_advances hrun hp hp.1
  | programAddress =>
    obtain ⟨op, k, hphase⟩ := hp.program_phase
    exact hphase.step_advances hrun hp rfl
  | _ => cases hp

end Phases

/-! ## The invariant of the next state -/

section Invariant

variable {i : Instr} {s t : State}

theorem inv_of_idle (hvalid : t.params.valid = true) (hwindow : Memory.wf t.window = true) (hready : t.ready = true)
    (hhalted : t.halted = false) (hq : t.seqst = .idle) (hok : t.idleOk) : t.Inv :=
  { params := hvalid
    window := hwindow
    ready := by simp [hready, hq]
    halted := by simp [hhalted, hq]
    idle := fun _ => hok
    halt := by simp [hq]
    running := fun h => absurd hq h }

theorem inv_of_halted (hvalid : t.params.valid = true) (hwindow : Memory.wf t.window = true) (h : t.isHalted)
    (hok : t.haltedOk) : t.Inv := by
  obtain ⟨-, -, -, -, hq, -, hready, hhalted⟩ := h
  exact
    { params := hvalid
      window := hwindow
      ready := by simp [hready, hq]
      halted := by simp [hhalted, hq]
      idle := by simp [hq]
      halt := fun _ => hok
      running := fun _ h => absurd hq h }

/-- At a point of its request the EPB stands in neither resting phase (R170). -/
theorem State.pointOf.seqst_ne (hp : t.pointOf i) : t.seqst ≠ .idle ∧ t.seqst ≠ .halted := by
  cases i with
  | writeReg _ | readReg _ | readMacShadow _ | waitIdle | submit _ _ | readCell _ | enableWrite | writeCell _ _
  | disableWrite | dump =>
    obtain ⟨hq, -⟩ := hp
    simp [hq]
  | programAddress =>
    obtain ⟨-, ⟨hq | hq, -⟩ | ⟨hq, -⟩ | ⟨hq, -⟩ | ⟨hq, -⟩⟩ := hp <;> simp [hq]
  | _ => cases hp

theorem inv_of_running (hvalid : t.params.valid = true) (hwindow : Memory.wf t.window = true) (hrun : t.running i)
    (hp : t.pointOf i) (hop : t.curOp = reqOp t.req) (hopst : t.opst = reqOp t.req) (hdecode : decodeReq t.req = .ok i)
    (hwf : i.wellFormed = true) : t.Inv := by
  obtain ⟨hready, hhalted, -⟩ := hrun
  obtain ⟨hidle, hhalt⟩ := hp.seqst_ne
  exact
    { params := hvalid
      window := hwindow
      ready := by simp [hready, hidle]
      halted := by simp [hhalted, hhalt]
      idle := fun h => absurd h hidle
      halt := fun h => absurd h hhalt
      running := fun _ _ => ⟨hop, hopst, i, hdecode, hwf, hp⟩ }

/-- A transaction keeps the window's canonical form. -/
theorem State.issues.wf (h : s.issues t) (hwf : Memory.wf s.window = true) : Memory.wf t.window = true := by
  obtain ⟨e, -, -, hread, hwrite⟩ := h
  cases e with
  | read o v => rw [(hread o v rfl).2.1]; exact hwf
  | write o v => rw [(hwrite o v rfl).1]; exact Memory.wf_writeHalf _ _ _ hwf

/-- An idle EPB's position and records (R24, R169). -/
theorem State.Inv.rest_of_ready (h : s.Inv) (hready : s.ready = true) : s.halted = false ∧ s.idleOk := by
  have hq := h.ready.mp hready
  refine ⟨?_, h.idle hq⟩
  rw [← Bool.not_eq_true, h.halted, hq]
  simp

/-- Where a request runs, REQ, CUR_OP and OPST name it, and the EPB stands at one of its points. -/
theorem State.Inv.of_running (h : s.Inv) (hdecode : decodeReq s.req = .ok i) (hrun : s.running i) :
    s.curOp = reqOp s.req ∧ s.opst = reqOp s.req ∧ i.wellFormed = true ∧ s.pointOf i := by
  obtain ⟨hready, hhalted, -⟩ := hrun
  obtain ⟨hop, hopst, j, hj, hwf, hp⟩ :=
    h.running (fun hq => by simp [h.ready.mpr hq] at hready) (fun hq => by simp [h.halted.mpr hq] at hhalted)
  obtain rfl : j = i := by simpa [hdecode] using hj.symm
  exact ⟨hop, hopst, hwf, hp⟩

/-- The host's side is no part of the invariant. -/
theorem State.Inv.withHost (h : s.Inv) (host : HostSide) : (s.withHost host).Inv where
  params := h.params
  window := h.window
  ready := h.ready
  halted := h.halted
  idle := h.idle
  halt := h.halt
  running hq hq' := by
    obtain ⟨hop, hopst, i, hdecode, hwf, hp⟩ := h.running hq hq'
    refine ⟨hop, hopst, i, hdecode, hwf, ?_⟩
    cases i with
    | _ => exact hp

/-- R174: a transaction step keeps the invariant. -/
theorem State.Inv.step_running (h : s.Inv) (hi : i.space = .request) (hdecode : decodeReq s.req = .ok i)
    (hrun : s.running i) : ∃ t, exec i s = .next t ∧ t.Inv := by
  obtain ⟨hop, hopst, hwf, hp⟩ := h.of_running hdecode hrun
  obtain ⟨t, hexec, hadv⟩ := exec_advances hwf hrun hp
  obtain ⟨⟨-, -, hparams, -⟩, ⟨hreq, hcurOp, -⟩, hissues, -, -⟩ := exec_running_transacts hi hrun t hexec
  have hvalid : t.params.valid = true := hparams ▸ h.params
  have hwindow := hissues.wf h.window
  refine ⟨t, hexec, ?_⟩
  cases hadv with
  | goesOn hrun' hp' hopst' =>
    exact inv_of_running hvalid hwindow hrun' hp' (by rw [hcurOp, hop, hreq]) (by rw [hopst', hopst, hreq])
      (by rw [hreq, hdecode]) hwf
  | finishes hok hmac =>
    obtain ⟨hout, hopst, hcell, hhalf, hq, hc, hready, hhalted⟩ := hok
    exact inv_of_idle hvalid hwindow hready hhalted hq ⟨⟨hopst, hcell, hhalf, hmac⟩, .inl ⟨hc, hout⟩⟩
  | halts hhalted hok => exact inv_of_halted hvalid hwindow hhalted hok

/-- R191, R192: a rejection keeps the invariant. -/
theorem State.Inv.of_rejected {c : OutcomeCode} (hc : c = .badOp ∨ c = .badArg) (hvalid : t.params.valid = true)
    (hwindow : Memory.wf t.window = true) (hhalted : t.halted = false) : (t.finish c).Inv := by
  rcases hc with rfl | rfl <;>
    exact inv_of_idle (by simpa using hvalid) (by simpa using hwindow) (by simp) (by simpa using hhalted) (by simp)
      (by simp [State.idleOk, State.atRest])

/-- R168: an acceptance step keeps the invariant. -/
theorem State.Inv.step_accepted (h : s.Inv) (hi : i.space = .request) (hready : s.ready = true) :
    ∃ t, exec i s = .next t ∧ t.Inv := by
  obtain ⟨hhalted, ⟨-, hcell, -, -⟩, -⟩ := h.rest_of_ready hready
  cases hwf : i.wellFormed with
  | true =>
    obtain ⟨⟨-, -, hparams, -⟩, ⟨hwindow, -, -⟩, -, hreq, -, -, hop, hopst, -⟩ := s.begun_latches i
    refine ⟨_, exec_accept hi hwf hready, ?_⟩
    exact inv_of_running (hparams ▸ h.params) (hwindow ▸ h.window) (s.begun_running i hhalted)
      (State.begun_pointOf hi hwf fun _ => hcell) (by rw [hop, hreq]) (by rw [hopst, hreq])
      (by rw [hreq]; exact decodeReq_encode hi) hwf
  | false =>
    obtain ⟨f, hexec⟩ := exec_accept_of_not_wellFormed hwf hready
    exact ⟨_, hexec, .of_rejected (.inr rfl) (by simpa using h.params) (by simpa using h.window) (by simpa using hhalted)⟩

/-- A word of the device port touches no register of the invariant but the window (log entry 8). -/
theorem State.Inv.writeWord (h : s.Inv) (o : Offset) (w : Word) : (s.writeWord o w).Inv where
  params := h.params
  window := Memory.wf_register h.window o _ _
  ready := h.ready
  halted := h.halted
  idle := h.idle
  halt := h.halt
  running hq hq' := by
    obtain ⟨hop, hopst, i, hdecode, hwf, hp⟩ := h.running hq hq'
    refine ⟨hop, hopst, i, hdecode, hwf, ?_⟩
    cases i with
    | _ => exact hp

/-- From an invariant state every step answers a next state, and an invariant one. -/
theorem State.Inv.step (h : s.Inv) : ∃ t, Machine.step s = .next t ∧ t.Inv := by
  have hins (ins : List Input) : State.Inv { s with inputs := ins } := h.withHost ⟨ins, s.argVal, s.argMac⟩
  cases step_stepped s with
  | settled host hr => exact ⟨_, hr, h.withHost host⟩
  | reset rest head hr =>
    exact ⟨_, hr, inv_of_idle h.params h.window rfl rfl rfl ⟨⟨rfl, rfl, rfl, rfl⟩, .inr ⟨rfl, .inl rfl⟩⟩⟩
  | rejected q c ins hready hc hr =>
    have hhalted := (h.rest_of_ready hready).1
    exact ⟨_, hr, .of_rejected hc (by simpa using h.params) (by simpa using h.window) (by simpa using hhalted)⟩
  | accepted i ins hready hi hr => exact hr ▸ (hins ins).step_accepted hi hready
  | running i ins hi hdecode hrun hr => exact hr ▸ (hins ins).step_running hi hdecode hrun
  | word i ins head hi hr =>
    obtain ⟨o, w, -, hexec⟩ := exec_word hi { s with inputs := ins }
    exact ⟨_, hr.trans hexec, (hins ins).writeWord o w⟩
  | stopped f e hready hhalted hdecode hr =>
    obtain ⟨-, -, i, hok, -⟩ :=
      h.running (fun hq => by simp [h.ready.mpr hq] at hready) (fun hq => by simp [h.halted.mpr hq] at hhalted)
    simp [hdecode] at hok

end Invariant

/-! ## The statements -/

/-- Settles O4: `State.Inv.step`, a step having one next state. -/
theorem stepKeepsInvariant : Obligations.StepKeepsInvariant := by
  unfold Obligations.StepKeepsInvariant
  intro s t h hstep
  obtain ⟨u, hu, hinv⟩ := h.step
  cases hstep.symm.trans hu
  exact hinv

/-- Settles O5: `State.Inv.step`. -/
theorem invariantStatesNeverStop : Obligations.InvariantStatesNeverStop := by
  unfold Obligations.InvariantStatesNeverStop
  intro s h
  obtain ⟨t, ht, -⟩ := h.step
  exact ⟨t, ht⟩

end Sys2Proof.Machine

/-! PROOFS. Arguments are latched at acceptance (10_state.md R22, R23; 70_reset_and_hazards.md R224): no transaction step of any
request sees the host's side, and every request without pending actions runs as its course says. -/

namespace Sys2Proof.Machine

section HostSide

variable (h : HostSide) {s t : State} {i : Instr}

/-- A request's transaction step does not see the host's side where its own pseudocode does not. -/
theorem runRequest_withHost (hr : s.running i) (f : Format) (start : State → State) {go : State → Result}
    (hgo : go (s.withHost h) = resultWithHost h (go s)) :
    (s.withHost h).runRequest i f start go = resultWithHost h (s.runRequest i f start go) := by
  obtain ⟨hready, hhalted, hreq⟩ := hr
  rw [State.runRequest_running i f start go hready hhalted hreq,
    State.runRequest_running (s := s.withHost h) i f start go hready hhalted hreq, hgo]

theorem resultWithHost_ite {c : Prop} [Decidable c] {a b a' b' : Result} (ha : a' = resultWithHost h a)
    (hb : b' = resultWithHost h b) : (if c then a' else b') = resultWithHost h (if c then a else b) := by
  split
  · exact ha
  · exact hb

theorem ignoresHost_finishOk (v : Word) : IgnoresHost (State.finishOk v) := fun _ _ => rfl

theorem ignoresHost_setCmdst (c : CmdSt) : IgnoresHost (State.setCmdst c) := fun _ _ => rfl

theorem ignoresHost_setMacReading (b : Bool) : IgnoresHost (State.setMacReading b) := fun _ _ => rfl

theorem singleCellStep_withHost (op : CellOp) {k : Word → State → State} (hk : ∀ v, IgnoresHost (k v)) :
    singleCellStep op k (s.withHost h) = resultWithHost h (singleCellStep op k s) :=
  resultWithHost_ite h (cellStep_withHost h op hk) rfl

theorem atOffset_withHost {t' : State} (ht : t' = t.withHost h) :
    atOffset (s.withHost h) t' = resultWithHost h (atOffset s t) :=
  resultWithHost_ite h rfl (resultWithHost_ite h (congrArg _ ht) rfl)

theorem macShadowStep_withHost : (s.withHost h).macShadowStep = s.macShadowStep.withHost h := by
  have hmac : (s.withHost h).macReading = s.macReading := rfl
  unfold State.macShadowStep
  rw [hmac]
  split
  · exact readRegister_withHost h _ ignoresHost_finishOk
  · exact writeRegister_withHost h _ _ (ignoresHost_setMacReading _)

/-- R224: a transaction step of a request does not see the host's side. -/
theorem exec_withHost (hi : i.space = .request) (hr : s.running i) :
    exec i (s.withHost h) = resultWithHost h (exec i s) := by
  have finish := ignoresHost_finishOk
  cases i with
  | writeReg off =>
    simp only [exec, execWriteReg]
    exact runRequest_withHost h hr _ _ (atOffset_withHost h (writeRegister_withHost h _ _ (finish 0)))
  | readReg off =>
    simp only [exec, execReadReg]
    exact runRequest_withHost h hr _ _ (atOffset_withHost h (readRegister_withHost h _ finish))
  | readMacShadow idx =>
    simp only [exec, execReadMacShadow]
    exact runRequest_withHost h hr _ _ (resultWithHost_ite h (congrArg _ (macShadowStep_withHost h)) rfl)
  | waitIdle =>
    simp only [exec, execWaitIdle]
    exact runRequest_withHost h hr _ _ (resultWithHost_ite h (congrArg _ (poll_withHost h finish)) rfl)
  | submit c a =>
    simp only [exec, execSubmit]
    exact runRequest_withHost h hr _ _
      (resultWithHost_ite h (congrArg _ (writeRegister_withHost h _ _ (ignoresHost_setCmdst _)))
        (resultWithHost_ite h (congrArg _ (writeRegister_withHost h _ _ (finish 0))) rfl))
  | readCell a | writeCell a d | disableWrite =>
    simp only [exec, execReadCell, execWriteCell, execDisableWrite]
    exact runRequest_withHost h hr _ _ (singleCellStep_withHost h _ fun _ => finish _)
  | enableWrite =>
    simp only [exec, execEnableWrite]
    exact runRequest_withHost h hr _ _ (singleCellStep_withHost h _ finish)
  | dump =>
    simp only [exec, execDump]
    exact runRequest_withHost h hr _ _ (resultWithHost_ite h
      (cellStep_withHost h _ (dumpNext_ignoresHost (fun _ _ _ _ => rfl) (finish 0))) rfl)
  | programAddress =>
    simp only [exec, execProgramAddress]
    exact runRequest_withHost h hr _ _ (programStep_withHost h s)
  | _ => cases hi

end HostSide

/-- With nothing pending a course is a run, step for step (R174). -/
theorem Course.run {i : Instr} (hi : i.space = .request) {n : Nat} {s t : State} (hc : Course i n s t)
    (hinputs : s.inputs = []) : run n s = .next t := by
  induction hc with
  | nil s => rfl
  | @cons n s u t running step rest ih =>
    have hfetch : s.fetch = .instr i s := by
      rw [State.fetch, hinputs]
      exact State.fetchRunning_of_running (decodeReq_encode hi) running
    obtain ⟨⟨-, -, -, hsame⟩, -⟩ := exec_running_transacts hi running u step
    rw [Nat.add_comm, run_add _ _ _ _ (run_of_instr hfetch step)]
    exact ih (hsame.trans hinputs)

/-- Settles O24: a transaction step keeps the host's side and does not see it. -/
theorem argumentWritesDoNotReachRunningRequest : Obligations.ArgumentWritesDoNotReachRunningRequest := by
  unfold Obligations.ArgumentWritesDoNotReachRunningRequest
  intro i s t v m hi hr h
  obtain ⟨⟨-, -, -, hinputs⟩, -⟩ := exec_running_transacts hi hr t h
  have hhost := exec_withHost ⟨s.inputs, v, m⟩ hi hr
  rw [h, resultWithHost, State.withHost, State.withHost, ← hinputs] at hhost
  rw [← hhost, hinputs]

end Sys2Proof.Machine

/-! PROOFS. The transitions of the two machines (43_sequencer.md R172, R173): CMDST and HALF inside every cell operation, SEQST
and CELL in every step of PROGRAM_ADDRESS. -/

namespace Sys2Proof.Machine

/-! ## Where a cell operation ends (R172) -/

section Points

variable {op : CellOp} {s : State} {c : CmdSt}

/-- No operation goes on after its data read, its check, or the last poll of a `writeCell` or `disableWrite`. -/
theorem CellOp.nextPoint_some (h : op.nextPoint s = some c) :
    s.cmdst ≠ .read ∧ s.cmdst ≠ .check ∧ (op.afterPostwait = none → s.cmdst = .busy → busyBit s.cmdValue = true) := by
  unfold CellOp.nextPoint at h
  cases hc : s.cmdst with
  | prewait | data | issue1 | issue2 => simp
  | busy =>
    cases hb : busyBit s.cmdValue with
    | true => simp
    | false =>
      rw [hc] at h
      simp only [hb, Bool.false_eq_true, if_false] at h
      simp [h]
  | check | read | idle | complete | timeout | xfer => simp [hc] at h

/-- An operation other than the unlock ends with its data read, or with the last poll of its post-wait. -/
theorem CellOp.nextPoint_none (hp : op.hasPoint s.cmdst = true) (hop : op ≠ .unlock) (h : op.nextPoint s = none) :
    op = .read ∧ s.cmdst = .read ∨ op.afterPostwait = none ∧ s.cmdst = .busy ∧ busyBit s.cmdValue = false := by
  unfold CellOp.nextPoint at h
  cases hc : s.cmdst with
  | prewait | data | issue1 | issue2 => simp [hc] at h
  | busy =>
    cases hb : busyBit s.cmdValue with
    | true => simp [hc, hb] at h
    | false =>
      rw [hc] at h
      simp only [hb, Bool.false_eq_true, if_false] at h
      simp [h]
  | check =>
    rw [hc] at hp
    exact absurd (of_decide_eq_true hp) hop
  | read =>
    rw [hc] at hp
    exact .inl ⟨of_decide_eq_true hp, rfl⟩
  | idle | complete | timeout | xfer =>
    rw [hc] at hp
    cases hp

end Points

/-! ## CMDST and HALF (R172) -/

/-- R172's table: CMDST after the high half at `s` in the operation `op`, where `last` says that none follows. -/
def commandNext (op : CellOp) (last : Bool) (s : State) : CmdSt :=
  match s.cmdst with
  | .prewait => if busyBit s.cmdValue then .prewait else if op = .write then .data else .issue1
  | .data => .issue1
  | .issue1 => .issue2
  | .issue2 => .busy
  | .busy => if busyBit s.cmdValue then .busy
      else if op = .read then .read
      else if op = .unlock then .check
      else if last then .complete else .prewait
  | .read => if last then .complete else .prewait
  | .check => if timeoutBit s.cmdValue then .timeout else if last then .complete else .prewait
  | other => other

/-- No operation of the request `i` follows the one in phase `q` on cell `c`. -/
def lastOperation (i : Instr) (q : SeqSt) (c : CellIx) : Bool :=
  if i = .programAddress then decide (q = .dumpPost ∧ c = 31) else if i = .dump then decide (c = 31) else true

section Transitions

variable {i : Instr} {q : SeqSt} {op : CellOp} {k : Word → State → State} {s t u : State}

theorem commandNext_of_some {c : CmdSt} (last : Bool) (h : op.nextPoint s = some c) : commandNext op last s = c := by
  unfold CellOp.nextPoint at h
  unfold commandNext
  cases hc : s.cmdst with
  | prewait =>
    rw [hc] at h
    injection h with h
    subst h
    cases op <;> rfl
  | data | issue1 | issue2 => simpa [hc] using h
  | busy =>
    rw [hc] at h
    cases hb : busyBit s.cmdValue with
    | true => simpa [hb] using h
    | false =>
      cases op with
      | read | unlock => simpa [hb, CellOp.afterPostwait] using h
      | write | lock => simp [hb, CellOp.afterPostwait] at h
  | check | read | idle | complete | timeout | xfer => simp [hc] at h

theorem commandNext_of_none (last : Bool) (hp : op.hasPoint s.cmdst = true) (hop : op ≠ .unlock)
    (h : op.nextPoint s = none) : commandNext op last s = if last then .complete else .prewait := by
  unfold commandNext
  rcases CellOp.nextPoint_none hp hop h with ⟨-, hc⟩ | ⟨hpost, hc, hb⟩
  · rw [hc]
  · rw [hc, hb]
    cases op with
    | read | unlock => cases hpost
    | write | lock => rfl

theorem dumpNext_command (im : Image) {j : State → State} (v : Word) (hu : u.half = false) {c : CmdSt}
    (hlast : u.cell = 31 → (j (im.set u.cell (dataByte v) u)).half = false ∧ (j (im.set u.cell (dataByte v) u)).cmdst = c)
    (hnext : u.cell ≠ 31 → c = .prewait) :
    (dumpNext im.set j v u).half = false ∧ (dumpNext im.set j v u).cmdst = c := by
  unfold dumpNext
  split
  next hcell => exact hlast hcell
  next hcell =>
    rw [hnext hcell]
    cases im <;> simp [Image.set, hu]

theorem writeNext_command (hu : u.half = false) : (writeNext u).half = false ∧ (writeNext u).cmdst = .prewait := by
  unfold writeNext
  split
  · simp [hu]
  · simp [hu]

/-- What follows an operation leaves CMDST at the end of the request or at the pre-wait of the next operation. -/
theorem CellPhase.command (h : CellPhase i q op k) (hu : u.half = false) (v : Word) :
    (k v u).half = false ∧ (k v u).cmdst = if lastOperation i q u.cell then .complete else .prewait := by
  cases h with
  | readCell a | enableWrite | writeCell a d | disableWrite => simp [lastOperation]
  | dump =>
    exact dumpNext_command .pre v hu (fun h => by simp [lastOperation, h])
      (fun h => by simpa [lastOperation] using h)
  | dumpPre =>
    exact dumpNext_command .pre v hu (fun _ => by simp [lastOperation, afterDumpPre, Image.set, hu])
      (fun _ => by simp [lastOperation])
  | unlock => simp [lastOperation, afterUnlock, hu]
  | write => simpa [lastOperation] using writeNext_command hu
  | lock => simp [lastOperation, afterLock, hu]
  | dumpPost =>
    exact dumpNext_command .post v hu (fun h => by simp [lastOperation, h])
      (fun h => by simpa [lastOperation] using h)

/-- R172: HALF and CMDST after a transaction of a cell operation in its phase. -/
theorem CellPhase.transition (h : CellPhase i q op k) (hrun : s.running i) (hp : s.pointOf i) (hq : s.seqst = q)
    (ht : exec i s = .next t) :
    (s.half = false → t.half = true ∧ t.cmdst = s.cmdst) ∧
      (s.half = true → t.half = false ∧ t.cmdst = commandNext op (lastOperation i q s.cell) s) := by
  have hpoint := h.hasPoint hp hq
  rw [h.performs s hrun hq] at ht
  obtain ⟨t', hstep, hnext⟩ := cellStep_next k hpoint
  cases hstep.symm.trans ht
  cases hnext with
  | low m hl hm ht =>
    subst ht
    simp only [hl, Bool.false_eq_true, false_implies, and_true, forall_const]
    exact ⟨hm, rfl⟩
  | moves c m hh hm hc ht =>
    subst ht
    simp only [hh, Bool.true_eq_false, false_implies, true_and, forall_const]
    exact ⟨hm, (commandNext_of_some _ hc).symm⟩
  | ends v m hh hm hc hop ht =>
    subst ht
    simp only [hh, Bool.true_eq_false, false_implies, true_and, forall_const]
    rw [commandNext_of_none _ hpoint hop hc]
    exact h.command (u := s.placed s.cmdst m) hm v
  | checked m hh hm hcmd hc hop ht =>
    subst ht
    simp only [hh, Bool.true_eq_false, false_implies, true_and, forall_const]
    have hend := h.command (u := (s.placed s.cmdst m).setTo (timeoutBit s.cmdValue)) hm s.cmdValue
    rw [commandNext, hc]
    rw [hc] at hend
    unfold afterCheck
    split
    · simp
    · exact hend

end Transitions

/-- Settles O44: each of the listed operations is a phase of its request, and `CellPhase.transition` says its table. -/
theorem commandFsmTransitions : Obligations.CommandFsmTransitions := by
  unfold Obligations.CommandFsmTransitions
  intro i op last s t hrun hp hphase ht
  suffices hsuff : ∃ k, CellPhase i s.seqst op k ∧ last = lastOperation i s.seqst s.cell by
    obtain ⟨k, h, rfl⟩ := hsuff
    exact h.transition hrun hp rfl ht
  rcases hphase with ⟨a, rfl, rfl, rfl⟩ | ⟨rfl, rfl, rfl⟩ | ⟨a, d, rfl, rfl, rfl⟩ | ⟨rfl, rfl, rfl⟩ | ⟨rfl, rfl, rfl⟩ |
    ⟨rfl, hphase⟩
  · rw [hp.1]; exact ⟨_, .readCell a, by simp [lastOperation]⟩
  · rw [hp.1]; exact ⟨_, .enableWrite, by simp [lastOperation]⟩
  · rw [hp.1]; exact ⟨_, .writeCell a d, by simp [lastOperation]⟩
  · rw [hp.1]; exact ⟨_, .disableWrite, by simp [lastOperation]⟩
  · rw [hp.1]; exact ⟨_, .dump, by simp [lastOperation]⟩
  · rcases hphase with ⟨hq, rfl, rfl⟩ | ⟨hq, rfl, rfl⟩ | ⟨hq, rfl, rfl⟩ | ⟨hq, rfl, rfl⟩ | ⟨hq, rfl, rfl⟩
    · rw [hq]; exact ⟨_, .dumpPre, by simp [lastOperation]⟩
    · rw [hq]; exact ⟨_, .unlock, by simp [lastOperation]⟩
    · rw [hq]; exact ⟨_, .write, by simp [lastOperation]⟩
    · rw [hq]; exact ⟨_, .lock, by simp [lastOperation]⟩
    · rw [hq]; exact ⟨_, .dumpPost, by simp [lastOperation]⟩

/-! ## SEQST and CELL (R173) -/

/-- Everything a transaction step of PROGRAM_ADDRESS does to SEQST and CELL (R173): it stays inside an operation, goes to
the next cell of its phase, or ends the phase. -/
inductive ProgramNext (s t : State) : Prop
  | within (hq : t.seqst = s.seqst) (hcell : t.cell = s.cell)
      (hpoint : s.half = true → s.cmdst ≠ .read ∧ s.cmdst ≠ .check ∧
        (s.seqst = .write ∨ s.seqst = .lock → s.cmdst = .busy → busyBit s.cmdValue = true))
  | nextRead (hs : s.seqst = .dumpPre ∨ s.seqst = .dumpPost) (hc : s.cmdst = .read) (hlast : s.cell ≠ 31)
      (hh : s.half = true) (hq : t.seqst = s.seqst) (hcell : t.cell = s.cell + 1)
  | dumpedPre (hs : s.seqst = .dumpPre) (hc : s.cmdst = .read) (hlast : s.cell = 31) (hh : s.half = true)
      (hq : t.seqst = .unlock) (hcell : t.cell = 0)
  | timedOut (hs : s.seqst = .unlock) (hc : s.cmdst = .check) (hto : timeoutBit s.cmdValue = true) (hh : s.half = true)
      (hq : t.seqst = .halted) (hcell : t.cell = 0)
  | unlocked (hs : s.seqst = .unlock) (hc : s.cmdst = .check) (hto : timeoutBit s.cmdValue = false) (hh : s.half = true)
      (hq : t.seqst = .write) (hcell : t.cell = 0) (hdata : t.curData = 0xA5)
  | nextWrite (hs : s.seqst = .write) (hc : s.cmdst = .busy) (hb : busyBit s.cmdValue = false) (hlast : s.cell ≠ 6)
      (hh : s.half = true) (hq : t.seqst = .write) (hcell : t.cell = s.cell + 1)
  | written (hs : s.seqst = .write) (hc : s.cmdst = .busy) (hb : busyBit s.cmdValue = false) (hlast : s.cell = 6)
      (hh : s.half = true) (hq : t.seqst = .lock) (hcell : t.cell = 0)
  | locked (hs : s.seqst = .lock) (hc : s.cmdst = .busy) (hb : busyBit s.cmdValue = false) (hh : s.half = true)
      (hq : t.seqst = .dumpPost) (hcell : t.cell = 0)
  | finished (hs : s.seqst = .dumpPost) (hc : s.cmdst = .read) (hlast : s.cell = 31) (hh : s.half = true)
      (hq : t.seqst = .idle) (hcell : t.cell = 0)

section Program

variable {s t : State}

@[simp] theorem State.placed_seqst (c : CmdSt) (m : PortSide) : (s.placed c m).seqst = s.seqst := rfl
@[simp] theorem State.placed_cell (c : CmdSt) (m : PortSide) : (s.placed c m).cell = s.cell := rfl

theorem dumpNext_phase (im : Image) (j : State → State) (v : Word) (u : State) :
    u.cell ≠ 31 ∧ (dumpNext im.set j v u).seqst = u.seqst ∧ (dumpNext im.set j v u).cell = u.cell + 1 ∨
      u.cell = 31 ∧ dumpNext im.set j v u = j (im.set u.cell (dataByte v) u) := by
  unfold dumpNext
  split
  next hcell => exact .inr ⟨hcell, rfl⟩
  next hcell => exact .inl ⟨hcell, by cases im <;> simp [Image.set]⟩

/-- A transaction other than the end of an operation keeps SEQST and CELL. -/
theorem ProgramNext.of_point {q : SeqSt} {op : CellOp} {k : Word → State → State} {c : CmdSt}
    (hphase : CellPhase .programAddress q op k) (hs : s.seqst = q) (hc : op.nextPoint s = some c) (m : PortSide) :
    ProgramNext s (s.placed c m) := by
  obtain ⟨hread, hcheck, hbusy⟩ := CellOp.nextPoint_some hc
  refine .within rfl rfl fun _ => ⟨hread, hcheck, fun hq => hbusy ?_⟩
  rw [hs] at hq
  cases hphase with
  | write | lock => rfl
  | dumpPre | unlock | dumpPost => simp at hq

/-- R173: what the end of an operation of PROGRAM_ADDRESS does. -/
theorem ProgramNext.of_end {q : SeqSt} {op : CellOp} {k : Word → State → State}
    (hphase : CellPhase .programAddress q op k) (hs : s.seqst = q) (hp : s.pointOf .programAddress) (hh : s.half = true)
    (hop : op ≠ .unlock) (hpoint : op.hasPoint s.cmdst = true) (hc : op.nextPoint s = none) (v : Word) (m : PortSide) :
    ProgramNext s (k v (s.placed s.cmdst m)) := by
  have hend := CellOp.nextPoint_none hpoint hop hc
  cases hphase with
  | dumpPre =>
    obtain ⟨-, hc⟩ : CellOp.read = .read ∧ s.cmdst = .read := by simpa [CellOp.afterPostwait] using hend
    rcases dumpNext_phase .pre afterDumpPre v (s.placed s.cmdst m) with ⟨hcell, hq, hnext⟩ | ⟨hcell, hlast⟩
    · exact .nextRead (.inl hs) hc hcell hh hq hnext
    · exact .dumpedPre hs hc hcell hh (by rw [hlast]; simp [afterDumpPre]) (by rw [hlast]; simp [afterDumpPre])
  | unlock => exact absurd rfl hop
  | write =>
    obtain ⟨hc, hb⟩ : s.cmdst = .busy ∧ busyBit s.cmdValue = false := by simpa [CellOp.afterPostwait] using hend
    obtain ⟨-, -, hle, -⟩ := (pointOf_write hs).mp hp
    have hcell : (s.placed s.cmdst m).cell = s.cell := rfl
    show ProgramNext s (writeNext (s.placed s.cmdst m))
    unfold writeNext
    rw [hcell]
    split
    next hlt => exact .nextWrite hs hc hb (by bv_omega) hh (by simpa using hs) (by simp)
    next hlt => exact .written hs hc hb (by bv_omega) hh (by simp) (by simp)
  | lock =>
    obtain ⟨hc, hb⟩ : s.cmdst = .busy ∧ busyBit s.cmdValue = false := by simpa [CellOp.afterPostwait] using hend
    exact .locked hs hc hb hh (by simp [afterLock]) (by simp [afterLock])
  | dumpPost =>
    obtain ⟨-, hc⟩ : CellOp.read = .read ∧ s.cmdst = .read := by simpa [CellOp.afterPostwait] using hend
    rcases dumpNext_phase .post (fun u => u.finishOk 0) v (s.placed s.cmdst m) with ⟨hcell, hq, hnext⟩ | ⟨hcell, hlast⟩
    · exact .nextRead (.inr hs) hc hcell hh hq hnext
    · exact .finished hs hc hcell hh (by rw [hlast]; simp) (by rw [hlast]; simp)

/-- R173: a transaction step of PROGRAM_ADDRESS at one of its points. -/
theorem programAddress_next (hrun : s.running .programAddress) (hp : s.pointOf .programAddress)
    (ht : exec .programAddress s = .next t) : ProgramNext s t := by
  obtain ⟨op, k, hphase⟩ := hp.program_phase
  have hpoint := hphase.hasPoint hp rfl
  rw [hphase.performs s hrun rfl] at ht
  obtain ⟨t', hstep, hnext⟩ := cellStep_next k hpoint
  cases hstep.symm.trans ht
  cases hnext with
  | low m hl hm ht => exact ht ▸ .within rfl rfl (by simp [hl])
  | moves c m hh hm hc ht => exact ht ▸ .of_point hphase rfl hc m
  | ends v m hh hm hc hop ht => exact ht ▸ .of_end hphase rfl hp hh hop hpoint hc v m
  | checked m hh hm hcmd hc hop ht' =>
    generalize hs : s.seqst = q at hphase
    subst hop
    rw [ht']
    cases hphase with
    | unlock =>
      cases hto : timeoutBit s.cmdValue with
      | true =>
        rw [afterCheck, hto, if_pos rfl]
        exact .timedOut hs hc hto hh (by simp) (by simp)
      | false =>
        rw [afterCheck, hto, if_neg Bool.false_ne_true]
        exact .unlocked hs hc hto hh (by simp [afterUnlock]) (by simp [afterUnlock]) (by simp [afterUnlock]; rfl)

end Program

/-- Settles O43: `programAddress_next`, read off clause by clause. -/
theorem programPhases : Obligations.ProgramPhases := by
  unfold Obligations.ProgramPhases
  intro s t hrun hp ht
  cases programAddress_next hrun hp ht with
  | within hq hcell hpoint =>
    refine ⟨.inl ⟨hq, .inl hcell⟩, fun _ hc hh => absurd hc (hpoint hh).1, fun _ hc hh => absurd hc (hpoint hh).2.1,
      fun hs hc hh hb => ?_, fun hs hc hh hb => ?_, fun _ hc hh => absurd hc (hpoint hh).1, fun _ => ⟨hq, hcell⟩,
      fun _ _ => hcell, fun hc hh => absurd hc (hpoint hh).1, fun hs hc hh hb => ?_⟩
    · simp [(hpoint hh).2.2 (.inl hs) hc] at hb
    · simp [(hpoint hh).2.2 (.inr hs) hc] at hb
    · simp [(hpoint hh).2.2 (.inl hs) hc] at hb
  | nextRead hs hc hlast hh hq hcell =>
    rcases hs with hs | hs <;> simpa [hs, hc, hh, hq, hcell] using hlast
  | dumpedPre hs hc hlast hh hq hcell | finished hs hc hlast hh hq hcell => simp [hs, hc, hh, hq, hcell, hlast]
  | timedOut hs hc hto hh hq hcell =>
    obtain ⟨-, -, hzero, -⟩ := (pointOf_unlock hs).mp hp
    simp [hs, hc, hh, hq, hcell, hto, hzero]
  | unlocked hs hc hto hh hq hcell hdata =>
    obtain ⟨-, -, hzero, -⟩ := (pointOf_unlock hs).mp hp
    simp [hs, hc, hh, hq, hcell, hto, hdata, hzero]
  | nextWrite hs hc hb hlast hh hq hcell => simpa [hs, hc, hh, hq, hcell, hb] using hlast
  | written hs hc hb hlast hh hq hcell => simp [hs, hc, hh, hq, hcell, hb, hlast]
  | locked hs hc hb hh hq hcell =>
    obtain ⟨-, -, hzero, -⟩ := (pointOf_lock hs).mp hp
    simp [hs, hc, hh, hq, hcell, hb, hzero]

end Sys2Proof.Machine

/-! PROOFS. The steps of the polls, the cell requests and the sequencer (41_protocol_primitives.md R120, R126,
42_cell_operations.md R140 to R147, 43_sequencer.md R160 to R163): their acceptance and the steps that end them. -/

namespace Sys2Proof.Machine

/-! ## Acceptance -/

/-- The request `i`, accepted at `s`, stands at its first point in `t`, and nothing else has happened yet (R168). -/
def State.acceptedAs (i : Instr) (s t : State) : Prop :=
  t.running i ∧ t.pointOf i ∧ t.half = false ∧ s.samePort t ∧ s.sameRecords t ∧ t.res = s.res

section Steps

variable {s : State} {i : Instr} {k : Word → State → State}

theorem exec_acceptedAs (hi : i.space = .request) (hformat : formatOf i = .hs ∨ formatOf i = .hc ∨ formatOf i = .hn)
    (hwf : i.wellFormed = true) (hready : s.ready = true) (hhalted : s.halted = false) :
    exec i s = .next (s.begun i) ∧ s.acceptedAs i (s.begun i) := by
  obtain ⟨-, hport, hrecords, -, -, -, -, -, -, -, hhalf, hres, -, -⟩ := s.begun_latches i
  have hcell : formatOf i = .hr ∨ formatOf i = .hm → s.cell = 0 := by
    rcases hformat with h | h | h <;> simp [h]
  exact ⟨exec_accept hi hwf hready, s.begun_running i hhalted, State.begun_pointOf hi hwf hcell, hhalf, hport, hrecords,
    hres⟩

/-! ## The steps of a cell operation, by their point (R172) -/

theorem cellStep_data (h : s.cmdst = .data) :
    s.cellStep .write k =
      .next (s.writeRegister s.params.e2pData (dataWord s.curData) (State.setCmdst .issue1)) := by
  simp [State.cellStep, h]

theorem cellStep_busy (op : CellOp) (h : s.cmdst = .busy) : s.cellStep op k = .next (s.poll (op.afterBusy k)) := by
  simp [State.cellStep, h]

theorem cellStep_check (h : s.cmdst = .check) : s.cellStep .unlock k = .next (s.checkTimeout k) := by
  simp [State.cellStep, h]

theorem cellStep_read (h : s.cmdst = .read) : s.cellStep .read k = .next (s.readRegister s.params.e2pData k) := by
  simp [State.cellStep, h]

/-- The state after the high half of a logical read at `o`. -/
def State.readEnd (o : Offset) (s : State) : State := (s.portRead (o + 2)).setHalf false

/-- The state after the high half of a command-register read (R26). -/
def State.pollEnd (s : State) : State := (s.readEnd s.params.e2pCmd).setLastCmd s.cmdValue

/-- R140: the high half of the data read. -/
theorem cellStep_readEnd (h : s.cmdst = .read) (hh : s.half = true) :
    s.cellStep .read k = .next (k s.dataValue (s.readEnd s.params.e2pData)) := by
  rw [cellStep_read h, State.readRegister_high _ _ hh]
  rfl

/-- R120: the high half of the post-wait's last poll, in an operation that ends with it. -/
theorem cellStep_busyEnd {op : CellOp} (hop : op = .write ∨ op = .lock) (h : s.cmdst = .busy) (hh : s.half = true)
    (hb : busyBit s.cmdValue = false) : s.cellStep op k = .next (k s.cmdValue s.pollEnd) := by
  rw [cellStep_busy op h, State.poll_done _ hh hb]
  rcases hop with rfl | rfl <;> rfl

/-- R124, R142: the high half of the check. -/
theorem cellStep_checkEnd (h : s.cmdst = .check) (hh : s.half = true) :
    s.cellStep .unlock k =
      .next (afterCheck k s.cmdValue (s.pollEnd.setTo (timeoutBit s.cmdValue))) := by
  rw [cellStep_check h]
  refine congrArg _ ((State.readRegister_high _ _ hh).trans ?_)
  exact checkNext_eq k s.cmdValue (s.readEnd s.params.e2pCmd)

end Steps

theorem loHalf_dataWord (b : Byte) : loHalf (dataWord b) = b.setWidth 16 := by
  ext i hi
  have hword : i < 32 := by omega
  simp [loHalf, dataWord, hword]

theorem hiHalf_dataWord (b : Byte) : hiHalf (dataWord b) = 0 := by
  ext i hi
  have hbyte : b.getLsbD (16 + i) = false := BitVec.getLsbD_of_ge _ _ (by omega)
  simp [hiHalf, dataWord, hbyte]

/-! ## The statements -/

/-- Settles O30: acceptance, and the three outcomes of a transaction of the poll. -/
theorem waitIdleCompletes : Obligations.WaitIdleCompletes := by
  unfold Obligations.WaitIdleCompletes
  refine ⟨fun s hready hhalted => ?accept, fun s hrun hp hl => ?low, fun s hrun hp hh => ?high⟩
  case accept =>
    obtain ⟨hexec, hrun, hp, hrest⟩ := exec_acceptedAs (i := .waitIdle) rfl (.inr (.inr rfl)) rfl hready hhalted
    exact ⟨_, hexec, hrun, hp, hrest⟩
  case low =>
    refine ⟨_, (exec_waitIdle_running hrun hp).trans (congrArg _ (State.poll_low _ hl)), hp, ?_⟩
    simp [State.sameRecords]
  case high =>
    rw [exec_waitIdle_running hrun hp]
    cases hb : busyBit s.cmdValue with
    | true =>
      rw [State.poll_busy _ hh hb]
      exact ⟨_, rfl, rfl, rfl, rfl, rfl, rfl, rfl, fun _ => ⟨hrun, hp, rfl, rfl, rfl⟩, nofun⟩
    | false =>
      rw [State.poll_done _ hh hb]
      refine ⟨_, rfl, by simp, by simp, by simp, by simp, by simp, by simp, nofun, fun _ => ⟨?_, by simp⟩⟩
      exact State.isOk_finishOk _ (by simpa using hrun.2.1)

/-- Settles O33: acceptance, and the high half of the data read. -/
theorem readCellCompletes : Obligations.ReadCellCompletes := by
  unfold Obligations.ReadCellCompletes
  refine ⟨fun a s hready hhalted ha => ?accept, fun a s hrun hp hc hh => ?ends⟩
  case accept =>
    obtain ⟨hexec, hrun, hp, hrest⟩ :=
      exec_acceptedAs (i := .readCell a) rfl (.inr (.inl rfl)) (decide_eq_true ha) hready hhalted
    exact ⟨_, hexec, hrun, hp, rfl, hrest⟩
  case ends =>
    refine ⟨_, (performs_readCell a s hrun hp.1).trans (cellStep_readEnd hc hh), ?_⟩
    refine ⟨State.isOk_finishOk _ (by simpa [State.readEnd] using hrun.2.1), ?_⟩
    simp [State.readEnd, State.sameRecords, State.sameHost, State.sameLatches, dataWord]

/-- Settles O34: acceptance, and the two ends of the check. -/
theorem enableWriteCompletes : Obligations.EnableWriteCompletes := by
  unfold Obligations.EnableWriteCompletes
  refine ⟨fun s hready hhalted => ?accept, fun s hrun hp hc hh => ?ends⟩
  case accept =>
    obtain ⟨hexec, hrun, hp, hrest⟩ := exec_acceptedAs (i := .enableWrite) rfl (.inr (.inr rfl)) rfl hready hhalted
    exact ⟨_, hexec, hrun, hp, rfl, hrest⟩
  case ends =>
    refine ⟨_, (performs_enableWrite s hrun hp.1).trans (cellStep_checkEnd hc hh), ?_⟩
    have hhalted : (s.pollEnd.setTo false).halted = false := by simpa [State.pollEnd, State.readEnd] using hrun.2.1
    cases hto : timeoutBit s.cmdValue with
    | true =>
      rw [afterCheck, hto, if_pos rfl]
      simp [State.isHalted, State.pollEnd, State.readEnd, State.sameHost, State.sameLatches]
    | false =>
      rw [afterCheck, hto, if_neg Bool.false_ne_true]
      have hok : ((s.pollEnd.setTo false).finishOk s.cmdValue).isOk := State.isOk_finishOk _ hhalted
      refine ⟨by simp, by simp [State.pollEnd], by simp, fun _ => hok, nofun, ?_⟩
      simp [State.pollEnd, State.readEnd, State.sameHost, State.sameLatches]

/-- What the last poll of WRITE_CELL and DISABLE_WRITE leaves (R145, R147). -/
theorem finishOk_pollEnd {s : State} (hhalted : s.halted = false) :
    (s.pollEnd.finishOk 0).isOk ∧ (s.pollEnd.finishOk 0).res = 0 ∧ (s.pollEnd.finishOk 0).lastCmd = s.cmdValue ∧
      (s.pollEnd.finishOk 0).toSeen = s.toSeen ∧ (s.pollEnd.finishOk 0).preImg = s.preImg ∧
      (s.pollEnd.finishOk 0).postImg = s.postImg ∧ (s.pollEnd.finishOk 0).window = s.window ∧
      s.sameHost (s.pollEnd.finishOk 0) ∧ s.sameLatches (s.pollEnd.finishOk 0) :=
  ⟨State.isOk_finishOk _ (by simpa [State.pollEnd, State.readEnd] using hhalted),
    by simp [State.pollEnd, State.readEnd, State.sameHost, State.sameLatches]⟩

/-- Settles O35: acceptance, the two halves of the data write, and the last poll. -/
theorem writeCellCompletes : Obligations.WriteCellCompletes := by
  unfold Obligations.WriteCellCompletes
  refine ⟨fun a d s hready hhalted ha => ?accept, fun a d s hrun hp hc hl => ?data, fun a d s hrun hp hc hh hb => ?ends⟩
  case accept =>
    obtain ⟨hexec, hrun, hp, hrest⟩ :=
      exec_acceptedAs (i := .writeCell a d) rfl (.inr (.inl rfl)) (decide_eq_true ha) hready hhalted
    exact ⟨_, hexec, hrun, hp, rfl, hrest⟩
  case data =>
    obtain ⟨hq, -, hcell, haddr, hdata, hcmd, hmac⟩ := hp
    have hstep (t : State) (hrun : t.running (.writeCell a d)) (hq : t.seqst = .single) (hc : t.cmdst = .data) :
        exec (.writeCell a d) t =
          .next (t.writeRegister t.params.e2pData (dataWord t.curData) (State.setCmdst .issue1)) :=
      (performs_writeCell a d t hrun hq).trans (cellStep_data hc)
    let t := (s.portWrite s.params.e2pData (loHalf (dataWord s.curData))).setHalf true
    have hlow : exec (.writeCell a d) s = .next t := by rw [hstep s hrun hq hc, State.writeRegister_low _ _ _ hl]
    have hhigh : exec (.writeCell a d) t =
        .next (((t.portWrite (t.params.e2pData + 2) (hiHalf (dataWord t.curData))).setHalf false).setCmdst .issue1) := by
      rw [hstep t hrun hq hc, State.writeRegister_high _ _ _ rfl]
    refine ⟨t, _, hlow, hhigh, by simp, by simp, ?point, ?trace, ?bytes, by simp [t, State.sameRecords], by simp [t]⟩
    case point => simp [t, State.pointOf, CellOp.hasPoint, hq, hcell, haddr, hdata, hcmd, hmac]
    case trace => simp [t, hdata, loHalf_dataWord, hiHalf_dataWord]
    case bytes => exact sameBytesBut_of_register _ (loHalf (dataWord s.curData)) (hiHalf (dataWord s.curData)) (by simp [t])
  case ends =>
    exact ⟨_, (performs_writeCell a d s hrun hp.1).trans (cellStep_busyEnd (.inl rfl) hc hh hb),
      finishOk_pollEnd hrun.2.1⟩

/-- Settles O36: acceptance and the last poll. -/
theorem disableWriteCompletes : Obligations.DisableWriteCompletes := by
  unfold Obligations.DisableWriteCompletes
  refine ⟨fun s hready hhalted => ?accept, fun s hrun hp hc hh hb => ?ends⟩
  case accept =>
    obtain ⟨hexec, hrun, hp, hrest⟩ := exec_acceptedAs (i := .disableWrite) rfl (.inr (.inr rfl)) rfl hready hhalted
    exact ⟨_, hexec, hrun, hp, rfl, hrest⟩
  case ends =>
    exact ⟨_, (performs_disableWrite s hrun hp.1).trans (cellStep_busyEnd (.inr rfl) hc hh hb),
      finishOk_pollEnd hrun.2.1⟩

/-- Settles O41: acceptance, and the data read of a cell, which is the last one or not. -/
theorem dumpCompletes : Obligations.DumpCompletes := by
  unfold Obligations.DumpCompletes
  refine ⟨fun s hready hhalted => ?accept, fun s hrun hp hc hh => ?cell⟩
  case accept =>
    obtain ⟨hexec, hrun, hp, hrest⟩ := exec_acceptedAs (i := .dump) rfl (.inr (.inr rfl)) rfl hready hhalted
    exact ⟨_, hexec, hrun, hp, by simp [State.begun, beginRequest], by simp [State.begun, beginRequest], hrest⟩
  case cell =>
    have hhalted := hrun.2.1
    refine ⟨_, (performs_dump s hrun hp.1).trans (cellStep_readEnd hc hh), ?_⟩
    have hcell : (s.readEnd s.params.e2pData).cell = s.cell := rfl
    unfold dumpNext
    rw [hcell]
    split
    next hlast =>
      simp [hlast, State.isOk, Image.set, State.readEnd, State.sameHost, State.sameLatches, hhalted]
    next hlast =>
      obtain ⟨hready, -, hreq⟩ := hrun
      obtain ⟨hq, -, -, -, hmac⟩ := hp
      have hlast' : s.cell = 31 ↔ False := iff_false_intro hlast
      simp only [hlast', false_implies, ne_eq, not_false_iff, forall_const, true_and]
      simp [Image.set, State.readEnd, State.sameHost, State.sameLatches, State.running, State.pointOf,
        CellOp.hasPoint, CellOp.cmd, hready, hhalted, hreq, hq, hmac]

/-- Settles O42: acceptance, and the data read of the last cell. -/
theorem programAddressCompletes : Obligations.ProgramAddressCompletes := by
  unfold Obligations.ProgramAddressCompletes
  refine ⟨fun s hready hhalted => ?accept, fun s hrun hp hq hc hcell hh => ?ends⟩
  case accept =>
    obtain ⟨hexec, hrun, hp, hhalf, hrest⟩ :=
      exec_acceptedAs (i := .programAddress) rfl (.inr (.inr rfl)) rfl hready hhalted
    exact ⟨_, hexec, hrun, hp, by simp [State.begun, beginRequest], by simp [State.begun, beginRequest],
      by simp [State.begun, beginRequest], hhalf, by simp [State.begun, beginRequest], hrest⟩
  case ends =>
    have hhalted := hrun.2.1
    refine ⟨_, (performs_dumpPost s hrun hq).trans (cellStep_readEnd hc hh), ?_⟩
    have hcell' : (s.readEnd s.params.e2pData).cell = 31 := hcell
    unfold dumpNext
    rw [hcell', if_pos rfl]
    simp [State.isOk, Image.set, State.readEnd, State.sameHost, State.sameLatches, hhalted, State.setPost]

end Sys2Proof.Machine

/-! PROOFS. Whole polls and whole cell requests with nothing pending (41_protocol_primitives.md R121, 42_cell_operations.md
R140 to R147): their courses against a live device, and what holds all along a course. -/

namespace Sys2Proof.Machine

/-! ## What holds all along a course -/

section Courses

variable {i : Instr} {n : Nat} {s t : State}

theorem Course.invariant {P : State → Prop} (hstep : ∀ s t, s.running i → P s → exec i s = .next t → P t)
    (hc : Course i n s t) (hs : P s) : P t := by
  induction hc with
  | nil s => exact hs
  | cons running step rest ih => exact ih (hstep _ _ running hs step)

theorem Course.sameHost (hi : i.space = .request) (hc : Course i n s t) : s.sameHost t :=
  hc.invariant (P := fun u => s.sameHost u)
    (fun _ _ hrun h step => h.trans (exec_running_transacts hi hrun _ step).host) ⟨rfl, rfl, rfl, rfl⟩

/-- While the request `i` runs the EPB stands at one of its points, and a halt leaves the records of R193. -/
def State.onCourse (i : Instr) (s : State) : Prop :=
  (s.running i → s.pointOf i) ∧ (s.halted = true → s.haltedOk)

theorem State.onCourse.of_point (hrun : s.running i) (hp : s.pointOf i) : s.onCourse i :=
  ⟨fun _ => hp, fun h => by simp [hrun.2.1] at h⟩

theorem State.onCourse.step (hwf : i.wellFormed = true) (hrun : s.running i) (h : s.onCourse i)
    (ht : exec i s = .next t) : t.onCourse i := by
  obtain ⟨t', ht', hadv⟩ := exec_advances hwf hrun (h.1 hrun)
  cases ht'.symm.trans ht
  cases hadv with
  | goesOn hrun' hp' _ => exact .of_point hrun' hp'
  | finishes hok _ =>
    obtain ⟨-, -, -, -, -, -, hready, hhalted⟩ := hok
    exact ⟨fun hrun => by simp [hrun.1] at hready, fun h => by simp [hhalted] at h⟩
  | halts hhalted hok => exact ⟨fun hrun => by simp [hrun.1, hrun.2.1, State.isHalted] at hhalted, fun _ => hok⟩

theorem Course.onCourse (hwf : i.wellFormed = true) (hc : Course i n s t) (h : s.onCourse i) : t.onCourse i :=
  hc.invariant (P := State.onCourse i) (fun _ _ hrun h step => h.step hwf hrun step) h

end Courses

/-! ## The poll of WAIT_IDLE (R120, R121) -/

section Polls

variable {i : Instr} {p : Params} {a : Vector Byte 6} {n : Nat} {rest : List Half} {tr : List BusEvent} {s : State}

/-- R121: any number of iterations that see BUSY stay in the loop. -/
theorem course_busyPolls {k : Word → State → State} (rs : List ReadPair) (hbusy : rs.all (fun r => r.hi.getLsbD 15) = true)
    (h : s.Midway i p a n (rs.flatMap ReadPair.answers ++ rest) tr)
    (hexec : ∀ m, exec i (s.withPort m) = .next ((s.withPort m).poll k)) :
    ∃ m, Course i (2 * rs.length) s (s.withPort m) ∧
      (s.withPort m).Midway i p a n rest (tr ++ rs.flatMap (ReadPair.events p.e2pCmd)) := by
  induction rs generalizing s tr with
  | nil => exact ⟨s.portSide, .nil s, by simpa using h⟩
  | cons r rs ih =>
    simp only [List.all_cons, Bool.and_eq_true] at hbusy
    obtain ⟨hr, hrs⟩ := hbusy
    rw [List.flatMap_cons, List.append_assoc] at h
    obtain ⟨m, hcourse, hm⟩ := course_iteration r h hexec
    rw [hr, if_pos rfl] at hcourse
    obtain ⟨m', hcourse', hm'⟩ := ih (s := s.withPort m) hrs hm hexec
    rw [State.withPort_withPort] at hcourse' hm'
    refine ⟨m', ?_, by simpa using hm'⟩
    rw [List.length_cons, Nat.mul_add, Nat.add_comm]
    exact hcourse.trans hcourse'

theorem wait_events_length (w : Wait) : (w.events p).length = 2 * w.count :=
  (w.accounts p).length

end Polls

/-- Against a live device with nothing pending, the request that stands at `s` in its course is midway. -/
theorem State.midway {i : Instr} {s : State} {answers : List Half} {n : Nat} (hrun : s.running i) (hhalf : s.half = false)
    (hdevice : s.device = liveDevice answers n) : s.Midway i s.params s.curMac n answers s.trace :=
  ⟨hrun, rfl, rfl, hhalf, hdevice, rfl⟩

theorem State.begun_midway {s : State} (i : Instr) {answers : List Half} {n : Nat} (hhalted : s.halted = false)
    (hdevice : s.device = liveDevice answers n) :
    (s.begun i).Midway i s.params s.argMac n answers s.trace := by
  obtain ⟨⟨-, -, hparams, -⟩, ⟨-, hdev, htrace⟩, -, -, -, -, -, -, -, hmac, hhalf, -⟩ := s.begun_latches i
  exact ⟨s.begun_running i hhalted, hparams, hmac, hhalf, hdev.trans hdevice, htrace⟩

theorem State.begun_inputs {s : State} (i : Instr) (hinputs : s.inputs = []) : (s.begun i).inputs = [] := by
  obtain ⟨⟨-, -, -, hsame⟩, -⟩ := s.begun_latches i
  exact hsame.trans hinputs

/-- WAIT_IDLE only reads (R120). -/
theorem Course.waitIdle_window {n : Nat} {s t : State} (hc : Course .waitIdle n s t) (h : s.onCourse .waitIdle) :
    t.window = s.window := by
  have hend := hc.invariant (P := fun u => u.onCourse .waitIdle ∧ u.window = s.window) (fun u v hrun hu step => ?_) ⟨h, rfl⟩
  · exact hend.2
  · obtain ⟨hu, hwindow⟩ := hu
    refine ⟨hu.step rfl hrun step, Eq.trans ?_ hwindow⟩
    rw [exec_waitIdle_running hrun (hu.1 hrun)] at step
    cases step
    exact State.poll_cases (fun v => v.window = u.window) _ (fun _ => rfl) (fun _ _ => rfl) (fun _ _ => by simp)

/-- Settles O32: `course_busyPolls`, run with nothing pending. -/
theorem busyDeviceHangsThePoll : Obligations.BusyDeviceHangsThePoll := by
  unfold Obligations.BusyDeviceHangsThePoll
  intro s polls rest n hrun hp hhalf hinputs hbusy hdevice
  have hexec (m : PortSide) : exec .waitIdle (s.withPort m) = .next ((s.withPort m).poll (fun v u => u.finishOk v)) :=
    exec_waitIdle_running hrun hp
  obtain ⟨m, hcourse, hm⟩ := course_busyPolls polls hbusy (State.midway hrun hhalf hdevice) hexec
  exact ⟨_, hcourse.run rfl hinputs, hrun, hp, hm.half, rfl, rfl, hm.trace⟩

/-- Settles O31: `course_poll` up to the last iteration, whose value LAST_CMD and RES take. -/
theorem waitIdleRun : Obligations.WaitIdleRun := by
  unfold Obligations.WaitIdleRun
  intro s w rest n hready hhalted hinputs hok hdevice
  have hrun := s.begun_running .waitIdle hhalted
  have hp : (s.begun .waitIdle).pointOf .waitIdle := State.begun_pointOf rfl rfl (by simp [formatOf])
  obtain ⟨-, ⟨hwindow, -, -⟩, ⟨-, -, -, hto⟩, -⟩ := s.begun_latches .waitIdle
  have hexec (m : PortSide) : exec .waitIdle ((s.begun .waitIdle).withPort m) =
      .next (((s.begun .waitIdle).withPort m).poll (fun v u => (u.setLastCmd v).finishOk v)) :=
    exec_waitIdle_running hrun hp
  obtain ⟨m, hcourse, hm⟩ := course_poll w hok (State.begun_midway .waitIdle hhalted hdevice) hexec
  have hkept := hcourse.waitIdle_window (.of_point hrun hp)
  rw [wait_events_length] at hcourse
  refine ⟨_, _, exec_waitIdle_accept hready, hcourse.run rfl (s.begun_inputs .waitIdle hinputs),
    State.isOk_finishOk _ hm.running.2.1, by simp, by simp, ?_, ?_, hkept.trans hwindow, ?_⟩
  · simpa using hm.trace
  · simpa using hm.device
  · exact hto

end Sys2Proof.Machine

/-! PROOFS. Whole cell requests (42_cell_operations.md R140 to R147): their exact bus trace, the number of transactions, and
the records they leave. -/

namespace Sys2Proof.Machine

/-! ## Counting (R125) -/

theorem CellRun.events_length (p : Params) (op : CellOp) (c : CellIx) (b : Byte) (r : CellRun) :
    (r.events p op c b).length = r.transactions op := by
  simp only [CellRun.events, CellRun.transactions, List.length_append, wait_events_length]
  cases op with
  | read | unlock | lock => simp [CellOp.hasTail, submitEvents, writeEvents, ReadPair.events]
  | write =>
    simp only [CellOp.hasTail, submitEvents, writeEvents, if_true, Bool.false_eq_true, if_false, List.length_append,
      List.length_cons, List.length_nil]
    omega

/-! ## LAST_CMD at the end of an operation (R26) -/

section LastCmd

variable {i : Instr} {q : SeqSt} {op : CellOp} {k : Word → State → State} {p : Params} {a : Vector Byte 6} {n : Nat}
  {rest : List Half} {tr : List BusEvent} {s t : State}

/-- LAST_CMD already holds the value that the last poll or the check of an operation hands on. -/
theorem cellStep_setLastCmd (hop : op ≠ .read) (k : Word → State → State) (s : State) :
    s.cellStep op (fun v t => k v (t.setLastCmd v)) = s.cellStep op k := by
  unfold State.cellStep
  cases s.cmdst with
  | read => rw [if_neg hop, if_neg hop]
  | prewait | data | issue1 | issue2 | idle | complete | timeout | xfer => rfl
  | check => rfl
  | busy =>
    cases op with
    | read => exact absurd rfl hop
    | unlock | write | lock => rfl

theorem Performs.setLastCmd (h : Performs i q op k) (hop : op ≠ .read) :
    Performs i q op (fun v t => k v (t.setLastCmd v)) :=
  fun s hs hq => (h s hs hq).trans (cellStep_setLastCmd hop k s).symm

/-- R140, R172: a `readCell` up to its data read. -/
theorem course_toRead (hi : Performs i q .read k) (r : CellRun) (hok : r.ok = true)
    (h : s.Midway i p a n (r.pre.answers ++ (r.post.answers ++ rest)) tr) (hq : s.seqst = q) (hc : s.cmdst = .prewait) :
    ∃ m, m.lastCmd = r.post.last.value ∧
      Course i (r.eventsToTail p .read s.cell s.curData).length s (s.placed .read m) ∧
      (s.placed .read m).Midway i p a n rest (tr ++ r.eventsToTail p .read s.cell s.curData) := by
  simp only [CellRun.ok, Bool.and_eq_true] at hok
  obtain ⟨hpre, hpost⟩ := hok
  have hrunning := h.running
  have hparams := h.params
  rw [← State.placed_self hc] at h
  obtain ⟨m₁, hcourse₁, hm₁⟩ := course_placedPoll hi hrunning hq (fun _ => rfl) r.pre hpre h
  obtain ⟨m₃, hcourse₃, hm₃⟩ := course_submit hi hrunning hparams hq (hm₁.placed .issue1)
  obtain ⟨m₄, hcourse₄, hm₄⟩ :=
    course_placedPoll hi hrunning hq (next := fun v u => (u.setLastCmd v).setCmdst .read) (fun _ => rfl) r.post hpost hm₃
  rw [State.placed_self hc] at hcourse₁
  have hevents : r.eventsToTail p .read s.cell s.curData =
      r.pre.events p ++ (submitEvents p CellOp.read.cmd (cellAddr s.cell) ++ r.post.events p) := by
    simp [CellRun.eventsToTail]
  refine ⟨m₄.setLastCmd r.post.last.value, rfl, ?_, ?_⟩
  · rw [hevents, List.length_append, List.length_append]
    exact hcourse₁.trans (hcourse₃.trans hcourse₄)
  · rw [hevents, ← List.append_assoc, ← List.append_assoc]
    exact (hm₄.placed .read).setLastCmd r.post.last.value

/-- The two transactions of the data read keep LAST_CMD (R26). -/
theorem Course.lastCmd_read (hc : Course i 2 s t) (hspace : i.space = .request) (hi : Performs i q .read k)
    (hq : s.seqst = q) (hpoint : s.cmdst = .read) (hhalf : s.half = false) : t.lastCmd = s.lastCmd := by
  have keeps {u v : State} (hrun : u.running i) (hu : u.cmdst = .read) (hv : exec i u = .next v) :
      v.lastCmd = u.lastCmd := by
    cases exec_running_records hspace hrun v hv with
    | quiet _ hrecords => exact hrecords.1
    | command hcommand _ _ _ _ => simp [State.endsCommandRead, hu] at hcommand
    | pre _ hlast _ _ => exact hlast
    | post _ hlast _ _ => exact hlast
  obtain ⟨⟩ | ⟨hrun, hlow, hrest⟩ := hc
  obtain ⟨⟩ | ⟨hrun', hhigh, hnil⟩ := hrest
  obtain ⟨⟩ := hnil
  have hread := (hi s hrun hq).symm.trans hlow
  rw [cellStep_read hpoint, State.readRegister_low _ _ hhalf] at hread
  cases hread
  exact (keeps hrun' hpoint hhigh).trans (keeps hrun hpoint hlow)

/-- R140: a whole `readCell`; LAST_CMD is that of the last poll of its post-wait. -/
theorem course_readCell_lastCmd (hspace : i.space = .request) (hi : Performs i q .read k) (r : CellRun)
    (hok : r.ok = true) (h : s.Midway i p a n (r.answers .read ++ rest) tr) (hq : s.seqst = q) (hc : s.cmdst = .prewait) :
    ∃ m, Course i (r.events p .read s.cell s.curData).length s (k r.tail.value (s.placed .read m)) ∧
      (s.placed .read m).Midway i p a n rest (tr ++ r.events p .read s.cell s.curData) ∧
      (k r.tail.value (s.placed .read m)).lastCmd = r.post.last.value := by
  have hrunning := h.running
  obtain rfl := h.params
  simp only [CellRun.answers, CellOp.hasTail, if_true, List.append_assoc] at h
  obtain ⟨m₁, hlast, hcourse₁, hm₁⟩ := course_toRead hi r hok h hq hc
  obtain ⟨m₂, hcourse₂, hm₂⟩ :=
    course_placedRead hi hrunning hq (o := s.params.e2pData) (next := k) (fun _ => rfl) r.tail hm₁
  refine ⟨m₂, ?_, ?_, (hcourse₂.lastCmd_read hspace hi hq rfl hm₁.half).trans hlast⟩
  · rw [CellRun.events_eq, List.length_append]
    exact hcourse₁.trans hcourse₂
  · rwa [CellRun.events_eq, ← List.append_assoc]

end LastCmd

/-! ## The statements -/

section Begun

variable {s : State}

theorem begun_single {i : Instr} {op : CellOp} {c : CellIx} (hstart : beginRequest i = startSingleCell op false c) :
    (s.begun i).seqst = .single ∧ (s.begun i).cmdst = .prewait ∧ (s.begun i).cell = c := by
  rw [State.begun, hstart]
  simp [startSingleCell]

end Begun

/-- Settles O37: `course_readCell_lastCmd`, run with nothing pending. -/
theorem readCellRun : Obligations.ReadCellRun := by
  unfold Obligations.ReadCellRun
  intro a s r rest n hready hhalted hinputs ha hok hdevice
  obtain ⟨hq, hc, hcell⟩ := begun_single (s := s) (i := .readCell a) rfl
  obtain ⟨-, -, ⟨-, hpre, hpost, hto⟩, -⟩ := s.begun_latches (.readCell a)
  obtain ⟨m, hcourse, hm, hlast⟩ :=
    course_readCell_lastCmd rfl (performs_readCell a) r hok (State.begun_midway _ hhalted hdevice) hq hc
  rw [hcell, CellRun.events_of_ne_write (by decide) s.params (cellOfAddr a) _ 0 r] at hcourse hm
  have hlength := CellRun.events_length s.params .read (cellOfAddr a) 0 r
  rw [hlength] at hcourse
  refine ⟨_, _, exec_readCell_accept ha hready, hcourse.run rfl (s.begun_inputs _ hinputs),
    State.isOk_finishOk _ hm.running.2.1, rfl, hlast, ?_, ?_, ?_, hto, hpre, hpost⟩
  · simpa using hm.trace
  · simpa [CellRun.transactions, CellOp.hasTail] using hlength
  · simpa using hm.device

/-- Settles O38: `course_unlock`, run with nothing pending; LAST_CMD and RES are the check's value either way. -/
theorem enableWriteRun : Obligations.EnableWriteRun := by
  unfold Obligations.EnableWriteRun
  intro s r rest n hready hhalted hinputs hok hdevice
  obtain ⟨hq, hc, hcell⟩ := begun_single (s := s) (i := .enableWrite) rfl
  obtain ⟨m, hcourse, hm⟩ :=
    course_unlock (performs_enableWrite.setLastCmd nofun) r hok (State.begun_midway _ hhalted hdevice) hq hc
  have hon := hcourse.onCourse rfl (.of_point (s.begun_running _ hhalted) (State.begun_pointOf rfl rfl (by simp [formatOf])))
  rw [hcell, CellRun.events_of_ne_write (by decide) s.params 0 _ 0 r] at hcourse hm
  rw [CellRun.events_length] at hcourse
  refine ⟨_, _, exec_enableWrite_accept hready, hcourse.run rfl (s.begun_inputs _ hinputs), ?_⟩
  have htrace : (((s.begun .enableWrite).placed .check m).setTo (timeoutBit r.tail.value)).trace = _ := hm.trace
  have hdevice' : (((s.begun .enableWrite).placed .check m).setTo (timeoutBit r.tail.value)).device = _ := hm.device
  have hnotHalted : (((s.begun .enableWrite).placed .check m).setTo (timeoutBit r.tail.value)).halted = false :=
    hm.running.2.1
  generalize hu : ((s.begun .enableWrite).placed .check m).setTo (timeoutBit r.tail.value) = u at *
  have hto : u.toSeen = timeoutBit r.tail.value := by rw [← hu]; rfl
  rw [timeoutBit_readPair] at hto
  cases hbit : r.tail.lo.getLsbD 9 with
  | true =>
    rw [afterCheck, timeoutBit_readPair, hbit, if_pos rfl] at hon ⊢
    obtain ⟨-, -, -, -, -, hlast⟩ := hon.2 (by simp)
    refine ⟨by simp, hlast.trans (by simp), by simp [hto, hbit], nofun, fun _ => State.isHalted_fatal _ _, ?_⟩
    simp [htrace, hdevice']
  | false =>
    rw [afterCheck, timeoutBit_readPair, hbit, if_neg Bool.false_ne_true]
    refine ⟨by simp, by simp, by simpa [hto] using hbit, fun _ => State.isOk_finishOk _ hnotHalted, nofun, ?_⟩
    simp [htrace, hdevice']

/-- Settles O39: `course_noTail` with the data write, run with nothing pending. -/
theorem writeCellRun : Obligations.WriteCellRun := by
  unfold Obligations.WriteCellRun
  intro a d s r rest n hready hhalted hinputs ha hok hdevice
  obtain ⟨hq, hc, hcell⟩ := begun_single (s := s) (i := .writeCell a d) rfl
  obtain ⟨-, -, ⟨-, -, -, hto⟩, -⟩ := s.begun_latches (.writeCell a d)
  obtain ⟨-, -, hdata⟩ := s.begun_operands (.writeCell a d)
  rw [formatOf, if_pos rfl, reqData_writeCell] at hdata
  obtain ⟨m, hcourse, hm⟩ :=
    course_noTail ((performs_writeCell a d).setLastCmd nofun) (.inl rfl) r hok (State.begun_midway _ hhalted hdevice) hq hc
  rw [hcell, hdata] at hcourse hm
  rw [CellRun.events_length] at hcourse
  refine ⟨_, _, exec_writeCell_accept ha hready, hcourse.run rfl (s.begun_inputs _ hinputs),
    State.isOk_finishOk _ hm.running.2.1, by simp, by simp, hto, ?_, ?_⟩
  · simpa using hm.trace
  · simpa using hm.device

/-- Settles O40: `course_noTail`, run with nothing pending. -/
theorem disableWriteRun : Obligations.DisableWriteRun := by
  unfold Obligations.DisableWriteRun
  intro s r rest n hready hhalted hinputs hok hdevice
  obtain ⟨hq, hc, hcell⟩ := begun_single (s := s) (i := .disableWrite) rfl
  obtain ⟨-, -, ⟨-, -, -, hto⟩, -⟩ := s.begun_latches .disableWrite
  obtain ⟨m, hcourse, hm⟩ :=
    course_noTail (performs_disableWrite.setLastCmd nofun) (.inr rfl) r hok (State.begun_midway _ hhalted hdevice) hq hc
  rw [hcell, CellRun.events_of_ne_write (by decide) s.params 0 _ 0 r] at hcourse hm
  rw [CellRun.events_length] at hcourse
  refine ⟨_, _, exec_disableWrite_accept hready, hcourse.run rfl (s.begun_inputs _ hinputs),
    State.isOk_finishOk _ hm.running.2.1, by simp, by simp, hto, ?_, ?_⟩
  · simpa using hm.trace
  · simpa using hm.device

end Sys2Proof.Machine

/-! PROOFS. The sequencer's whole runs with nothing pending (43_sequencer.md R160 to R166, R193): their exact bus trace, the
number of transactions, the images and the records. -/

namespace Sys2Proof.Machine

/-! ## Counting (R166) -/

theorem dumpEvents_length (p : Params) (c : Nat) (rs : List CellRun) :
    (dumpEvents p c rs).length = 6 * rs.length + 2 * runPolls rs := by
  induction rs generalizing c with
  | nil => rfl
  | cons r rs ih =>
    rw [dumpEvents, List.length_append, ih, CellRun.events_length, CellRun.transactions_eq, runPolls_cons,
      List.length_cons, CellOp.ownTransactions]
    omega

theorem writesEvents_length (p : Params) (c : Nat) {bs : List Byte} {rs : List CellRun} (h : bs.length = rs.length) :
    (writesEvents p c bs rs).length = 6 * rs.length + 2 * runPolls rs := by
  induction rs generalizing c bs with
  | nil =>
    obtain rfl := List.eq_nil_of_length_eq_zero h
    rfl
  | cons r rs ih =>
    obtain ⟨b, bs, rfl⟩ := List.exists_cons_of_length_eq_add_one h
    rw [writesEvents, List.length_append, ih _ (by simpa using h), CellRun.events_length, CellRun.transactions_eq,
      runPolls_cons, List.length_cons, CellOp.ownTransactions]
    omega

theorem ProgramRun.eventsToUnlock_length (p : Params) {r : ProgramRun} (hok : r.ok = true) :
    (r.eventsToUnlock p).length = 198 + 2 * r.pollsToUnlock := by
  obtain ⟨hlen, -, -⟩ := ProgramRun.lengths hok
  rw [ProgramRun.eventsToUnlock, List.length_append, dumpEvents_length, CellRun.events_length, CellRun.transactions_eq,
    hlen, ProgramRun.pollsToUnlock, CellOp.ownTransactions]
  omega

theorem ProgramRun.events_length (p : Params) (m : Vector Byte 6) {r : ProgramRun} (hok : r.ok = true) :
    (r.events p m).length = 436 + 2 * r.polls := by
  obtain ⟨-, hlenWrites, hlenPost⟩ := ProgramRun.lengths hok
  have hbytes : (programBytes m).length = r.writes.length := by simp [programBytes, hlenWrites]
  simp only [ProgramRun.events, List.length_append, dumpEvents_length, writesEvents_length p 0 hbytes,
    CellRun.events_length, CellRun.transactions_eq, ProgramRun.eventsToUnlock_length p hok, hlenWrites, hlenPost,
    ProgramRun.polls, CellOp.ownTransactions]
  omega

theorem dumpEvents_append (p : Params) (c : Nat) (rs rs' : List CellRun) :
    dumpEvents p c (rs ++ rs') = dumpEvents p c rs ++ dumpEvents p (c + rs.length) rs' := by
  induction rs generalizing c with
  | nil => rfl
  | cons r rs ih =>
    have hnext : c + 1 + rs.length = c + (r :: rs).length := by rw [List.length_cons]; omega
    rw [List.cons_append, dumpEvents, dumpEvents, ih, hnext, List.append_assoc]

/-! ## A dump, with the LAST_CMD it leaves (R160, R26) -/

section Dumps

variable {i : Instr} {q : SeqSt} {p : Params} {a : Vector Byte 6} {n : Nat} {rest : List Half} {tr : List BusEvent}
  {s : State}

/-- R160: the cells of a dump from `c` on, none of them the last. -/
theorem course_dumpCells (im : Image) {k : State → State} (hi : Performs i q .read (dumpNext im.set k)) (rs : List CellRun)
    {c : Nat} {tr : List BusEvent} {s : State} (hlen : c + rs.length ≤ 31) (hok : rs.all CellRun.ok = true)
    (h : s.Midway i p a n (dumpAnswers rs ++ rest) tr) (hq : s.seqst = q) (hpoint : s.cmdst = .prewait)
    (hcell : s.cell = BitVec.ofNat 5 c) :
    ∃ u, Course i (dumpEvents p c rs).length s u ∧ u.Midway i p a n rest (tr ++ dumpEvents p c rs) ∧ u.seqst = q ∧
      u.cmdst = .prewait ∧ u.cell = BitVec.ofNat 5 (c + rs.length) ∧
      (im.get u).toList.take (c + rs.length) = (im.get s).toList.take c ++ dumpImage rs := by
  induction rs generalizing c tr s with
  | nil => exact ⟨s, .nil s, by simpa [dumpEvents, dumpAnswers] using h, hq, hpoint, hcell, by simp [dumpImage]⟩
  | cons r rs ih =>
    rw [List.all_cons, Bool.and_eq_true] at hok
    obtain ⟨hr, hrs⟩ := hok
    rw [dumpAnswers, List.flatMap_cons, List.append_assoc] at h
    rw [List.length_cons] at hlen
    obtain ⟨u, hcourse, hu, huq, himg, -⟩ := course_dumpCell im hi r hr h hq hpoint (by omega) hcell
    rw [if_neg (by omega)] at hcourse
    have hnext : (u.startSeqCell .read (BitVec.ofNat 5 (c + 1))).Midway i p a n (dumpAnswers rs ++ rest)
        (tr ++ r.events p .read (BitVec.ofNat 5 c) 0) :=
      hu.of_same (by simp [State.sameMidway])
    obtain ⟨v, hcourse', hv, hvq, hvc, hvcell, himg'⟩ :=
      ih (c := c + 1) (by omega) hrs hnext (by simpa using huq) (by simp) (by simp)
    have hcount : c + 1 + rs.length = c + (r :: rs).length := by rw [List.length_cons]; omega
    rw [hcount] at hvcell himg'
    refine ⟨v, ?_, ?_, hvq, hvc, hvcell, ?_⟩
    · rw [dumpEvents, List.length_append]
      exact hcourse.trans hcourse'
    · rwa [dumpEvents, ← List.append_assoc]
    · rw [himg', im.get_startSeqCell, himg]
      simp [dumpImage]

/-- R160: a whole dump; LAST_CMD is that of the last poll of its last cell. -/
theorem course_wholeDump_lastCmd (hspace : i.space = .request) (im : Image) {k : State → State}
    (hi : Performs i q .read (dumpNext im.set k)) {rs : List CellRun} (hlen : rs.length = 32)
    (hok : rs.all CellRun.ok = true) (h : s.Midway i p a n (dumpAnswers rs ++ rest) tr) (hq : s.seqst = q)
    (hpoint : s.cmdst = .prewait) (hcell : s.cell = 0) :
    ∃ u, Course i (dumpEvents p 0 rs).length s (k u) ∧ u.Midway i p a n rest (tr ++ dumpEvents p 0 rs) ∧
      (im.get u).toList = dumpImage rs ∧ some (k u).lastCmd = rs.getLast?.map (fun c => c.post.last.value) := by
  obtain ⟨init, last, rfl⟩ : ∃ init last, rs = init ++ [last] :=
    ⟨_, _, (List.dropLast_append_getLast (List.ne_nil_of_length_eq_add_one hlen)).symm⟩
  have hinit : init.length = 31 := by simpa using hlen
  rw [List.all_append, Bool.and_eq_true] at hok
  obtain ⟨hokInit, hokLast⟩ := hok
  have hlast : last.ok = true := by simpa using hokLast
  rw [dumpAnswers, List.flatMap_append, List.append_assoc] at h
  obtain ⟨u, hcourse, hu, huq, huc, hucell, himg⟩ :=
    course_dumpCells im hi init (c := 0) (by omega) hokInit h hq hpoint hcell
  have hucell : u.cell = 31 := by rw [hucell, hinit]; rfl
  obtain ⟨m, hcourse', hm, hcmd⟩ :=
    course_readCell_lastCmd (rest := rest) hspace hi last hlast (by simpa using hu) huq huc
  rw [CellRun.events_of_ne_write (by decide) p u.cell u.curData 0 last, hucell] at hcourse' hm
  have hnext : dumpNext im.set k last.tail.value (u.placed .read m) = k (im.set 31 last.byte (u.placed .read m)) := by
    have hcell' : (u.placed .read m).cell = 31 := hucell
    rw [dumpNext, hcell', if_pos rfl]
    rfl
  have hevents : dumpEvents p 0 (init ++ [last]) = dumpEvents p 0 init ++ last.events p .read 31 0 := by
    rw [dumpEvents_append, hinit, dumpEvents, dumpEvents, List.append_nil]
    rfl
  rw [hnext] at hcourse' hcmd
  refine ⟨im.set 31 last.byte (u.placed .read m), ?_, ?_, ?_, ?_⟩
  · rw [hevents, List.length_append]
    exact hcourse.trans hcourse'
  · rw [hevents, ← List.append_assoc]
    exact hm.of_same (im.sameMidway_set _ _ _)
  · have hset := take_succ_set (im.get u) (c := 31) (by decide) last.byte
    have himg31 : (im.get u).toList.take 31 = dumpImage init := by simpa [hinit] using himg
    rw [List.take_of_length_le (by simp), himg31] at hset
    rw [im.get_set, im.get_placed]
    simpa [dumpImage] using hset
  · simpa using hcmd

end Dumps

/-- R162: steps 3 to 5, from the check that saw no TIMEOUT to the finish, with the image and the LAST_CMD that the second
dump leaves. -/
theorem course_toFinish_lastCmd {r : ProgramRun} {rest : List Half} {n : Nat} {u : State} {tr : List BusEvent} {p : Params}
    {a : Vector Byte 6} (hok : r.ok = true)
    (hu : u.Midway .programAddress p a n
      (r.writes.flatMap (CellRun.answers .write) ++ (r.lock.answers .lock ++ (dumpAnswers r.post ++ rest))) tr) :
    ∃ v : State, Course .programAddress (writesEvents p 0 (programBytes a) r.writes ++ (r.lock.events p .lock 0 0 ++
        dumpEvents p 0 r.post)).length (afterUnlock u) (v.finishOk 0) ∧
      v.Midway .programAddress p a n rest (tr ++ (writesEvents p 0 (programBytes a) r.writes ++
        (r.lock.events p .lock 0 0 ++ dumpEvents p 0 r.post))) ∧
      v.postImg.toList = dumpImage r.post ∧
      some (v.finishOk 0).lastCmd = r.post.getLast?.map (fun c => c.post.last.value) := by
  obtain ⟨-, hlenWrites, hlenPost⟩ := ProgramRun.lengths hok
  obtain ⟨-, -, hwrites, hlock, hpost⟩ := ProgramRun.cells_ok hok
  have hstart : (afterUnlock u).Midway .programAddress p a n
      (r.writes.flatMap (CellRun.answers .write) ++ (r.lock.answers .lock ++ (dumpAnswers r.post ++ rest))) tr :=
    hu.of_same (by simp [afterUnlock, State.sameMidway])
  obtain ⟨r₀, rs, hrs⟩ := List.exists_cons_of_length_eq_add_one hlenWrites
  rw [hrs] at hlenWrites hwrites hstart ⊢
  obtain ⟨v₁, hcourse₁, hv₁⟩ :=
    course_writes performs_write r₀ rs (c := 0) (by simpa using hlenWrites) hwrites hstart (by simp [afterUnlock])
      (by simp [afterUnlock]) (by simp [afterUnlock]) (by simp [afterUnlock, programBytes])
  rw [List.drop_zero] at hcourse₁ hv₁
  obtain ⟨m, hcourse₂, hm⟩ :=
    course_noTail performs_lock (.inr rfl) r.lock hlock
      (hv₁.of_same (t := (v₁.setSeqst .lock).startCell .lock 0) (by simp [State.sameMidway])) (by simp) (by simp)
  have hcell : ((v₁.setSeqst .lock).startCell .lock 0).cell = 0 := by simp
  rw [hcell, CellRun.events_of_ne_write (by decide) p 0 _ 0 r.lock] at hcourse₂ hm
  obtain ⟨v, hcourse₃, hv, himg, hcmd⟩ :=
    course_wholeDump_lastCmd rfl .post performs_dumpPost hlenPost hpost
      (hm.of_same (t := afterLock (State.placed .busy m ((v₁.setSeqst .lock).startCell .lock 0)))
        (by simp [afterLock, State.sameMidway])) (by simp [afterLock]) (by simp [afterLock]) (by simp [afterLock])
  refine ⟨v, ?_, by simpa only [List.append_assoc] using hv, himg, hcmd⟩
  rw [List.length_append, List.length_append]
  exact hcourse₁.trans (hcourse₂.trans hcourse₃)

/-! ## What holds all along PROGRAM_ADDRESS (R148, R162) -/

section Program

variable {n : Nat} {s t : State}

/-- The phases of PROGRAM_ADDRESS after the check, and its end (R162). -/
def SeqSt.pastCheck : SeqSt → Bool
  | .write | .lock | .dumpPost | .idle => true
  | .single | .dumpPre | .unlock | .halted => false

/-- TO keeps, past the check, what the check saw. -/
def State.checkedClear (s : State) : Prop := s.seqst.pastCheck = true → s.toSeen = false

theorem State.checkedClear.step (hrun : s.running .programAddress) (hp : s.pointOf .programAddress) (h : s.checkedClear)
    (ht : exec .programAddress s = .next t) : t.checkedClear := by
  have hto := (exec_running_transacts rfl hrun t ht).toSeen
  have kept (hc : ¬(s.cmdst = .check ∧ s.half = true)) (hs : t.seqst.pastCheck = true → s.seqst.pastCheck = true) :
      t.checkedClear := fun hq => by rw [hto, if_neg hc, h (hs hq)]
  cases programAddress_next hrun hp ht with
  | within hq _ hpoint => exact kept (fun ⟨hc, hh⟩ => (hpoint hh).2.1 hc) (by rw [hq]; exact id)
  | nextRead _ hc _ _ hq _ => exact kept (by simp [hc]) (by rw [hq]; exact id)
  | dumpedPre _ _ _ _ hq _ | timedOut _ _ _ _ hq _ => exact fun h => by simp [hq, SeqSt.pastCheck] at h
  | unlocked _ hc hbit hh _ _ _ => exact fun _ => by rw [hto, if_pos ⟨hc, hh⟩, hbit]
  | nextWrite hs hc | written hs hc | locked hs hc | finished hs hc =>
    exact kept (by simp [hc]) (by simp [hs, SeqSt.pastCheck])

/-- R124, R148: a PROGRAM_ADDRESS that ends OK ends with TO clear. -/
theorem Course.toSeen_program (hc : Course .programAddress n s t) (hon : s.onCourse .programAddress)
    (h : s.checkedClear) : t.checkedClear :=
  (hc.invariant (P := fun u => u.onCourse .programAddress ∧ u.checkedClear)
    (fun _ _ hrun hu step => ⟨hu.1.step rfl hrun step, hu.2.step hrun (hu.1.1 hrun) step⟩) ⟨hon, h⟩).2

/-- R27: past step 1 PRE_IMG stays. -/
theorem Course.preImg_program (hc : Course .programAddress n s t) (hon : s.onCourse .programAddress)
    (hq : s.seqst ≠ .dumpPre) : t.preImg = s.preImg := by
  have hend := hc.invariant
    (P := fun u => u.onCourse .programAddress ∧ u.seqst ≠ .dumpPre ∧ u.preImg = s.preImg)
    (fun u v hrun hu step => ?step) ⟨hon, hq, rfl⟩
  case step =>
    obtain ⟨hu, hq, hpre⟩ := hu
    refine ⟨hu.step rfl hrun step, ?_, Eq.trans ?_ hpre⟩
    · cases programAddress_next hrun (hu.1 hrun) step with
      | within hq' | nextRead _ _ _ _ hq' => rwa [hq']
      | dumpedPre _ _ _ _ hq' | timedOut _ _ _ _ hq' | unlocked _ _ _ _ hq' | nextWrite _ _ _ _ _ hq'
      | written _ _ _ _ _ hq' | locked _ _ _ _ hq' | finished _ _ _ _ hq' => simp [hq']
    · cases exec_running_records rfl hrun v step with
      | quiet _ hrecords => exact hrecords.2.1
      | command _ _ hpre' _ _ => exact hpre'
      | pre hpoint _ _ _ => exact absurd hpoint.1 hq
      | post _ _ hpre' _ => exact hpre'
  exact hend.2.2

theorem startProgram_onCourse (hhalted : s.halted = false) : (startProgram s).onCourse .programAddress :=
  .of_point (s.begun_running .programAddress hhalted)
    (State.begun_pointOf (i := .programAddress) rfl rfl (by simp [formatOf]))

end Program

/-- DUMP never checks the timeout (R148, R161). -/
theorem Course.toSeen_dump {n : Nat} {s t : State} (hc : Course .dump n s t) (hon : s.onCourse .dump) :
    t.toSeen = s.toSeen := by
  have hend := hc.invariant (P := fun u => u.onCourse .dump ∧ u.toSeen = s.toSeen) (fun u v hrun hu step => ?step) ⟨hon, rfl⟩
  case step =>
    obtain ⟨hu, hto⟩ := hu
    have hcheck : u.cmdst ≠ .check := fun hc => by
      have hpoint := CellPhase.dump.hasPoint (hu.1 hrun) (hu.1 hrun).1
      simp [hc, CellOp.hasPoint] at hpoint
    exact ⟨hu.step rfl hrun step, by rw [(exec_running_transacts rfl hrun v step).toSeen, if_neg (by simp [hcheck]), hto]⟩
  exact hend.2

/-- A halted EPB with nothing pending stays as it is (R193). -/
theorem run_of_halted {s : State} (hhalted : s.halted = true) (hinputs : s.inputs = []) (k : Nat) : run k s = .next s := by
  induction k with
  | zero => rfl
  | succ k ih => rw [run_succ k s s (noStepWithoutRequest s hinputs (.inr hhalted)), ih]

/-- R162: the whole course of a PROGRAM_ADDRESS that is not halted. -/
theorem course_program {s : State} {r : ProgramRun} {rest : List Half} {n : Nat} (hhalted : s.halted = false)
    (hok : r.ok = true) (hto : r.timedOut = false) (hdevice : s.device = liveDevice (r.answers ++ rest) n) :
    ∃ v : State, Course .programAddress (436 + 2 * r.polls) (startProgram s) (v.finishOk 0) ∧
      v.Midway .programAddress s.params s.argMac n rest (s.trace ++ r.events s.params s.argMac) ∧
      v.toSeen = false ∧ v.preImg.toList = dumpImage r.pre ∧ v.postImg.toList = dumpImage r.post ∧
      some v.lastCmd = r.post.getLast?.map (fun c => c.post.last.value) := by
  simp only [ProgramRun.answers, List.append_assoc] at hdevice
  obtain ⟨u, hcourse, hu, hpre, -⟩ := course_toCheck hhalted hok hdevice
  rw [afterCheck, ProgramRun.timeoutBit_eq, hto, if_neg Bool.false_ne_true] at hcourse
  obtain ⟨v, hcourse', hv, hpost, hcmd⟩ := course_toFinish_lastCmd hok hu
  have hon := startProgram_onCourse hhalted
  have hend := hcourse.trans hcourse'
  have hclear : (v.finishOk 0).toSeen = false :=
    hend.toSeen_program hon (fun h => by simp [startProgram, SeqSt.pastCheck] at h) (by simp [SeqSt.pastCheck])
  have hkept : (v.finishOk 0).preImg = u.preImg :=
    (hcourse'.preImg_program (hcourse.onCourse rfl hon) (by simp [afterUnlock])).trans (by simp [afterUnlock])
  have hevents : r.events s.params s.argMac = r.eventsToUnlock s.params ++ (writesEvents s.params 0
      (programBytes s.argMac) r.writes ++ (r.lock.events s.params .lock 0 0 ++ dumpEvents s.params 0 r.post)) := by
    simp only [ProgramRun.events, List.append_assoc]
  rw [← List.length_append, ← hevents, ProgramRun.events_length _ _ hok] at hend
  rw [List.append_assoc, ← hevents] at hv
  exact ⟨v, hend, hv, by simpa using hclear, by simpa [← hpre] using congrArg Vector.toList hkept, hpost, by simpa using hcmd⟩

/-! ## The statements -/

/-- Settles O45: `course_wholeDump`, run with nothing pending. -/
theorem dumpRun : Obligations.DumpRun := by
  unfold Obligations.DumpRun
  intro s rs rest n hready hhalted hinputs hlen hok hdevice
  obtain ⟨-, -, ⟨-, -, hpost, hto⟩, -⟩ := s.begun_latches .dump
  have hon : (s.begun .dump).onCourse .dump :=
    .of_point (s.begun_running .dump hhalted) (State.begun_pointOf rfl rfl (by simp [formatOf]))
  obtain ⟨u, hcourse, hu, himg, hother⟩ :=
    course_wholeDump .pre performs_dump hlen hok (State.begun_midway .dump hhalted hdevice)
      (by simp [State.begun, beginRequest]) (by simp [State.begun, beginRequest]) (by simp [State.begun, beginRequest])
  have hkept := hcourse.toSeen_dump hon
  rw [dumpEvents_length, hlen] at hcourse
  refine ⟨_, _, exec_dump_accept hready, hcourse.run rfl (s.begun_inputs _ hinputs), State.isOk_finishOk _ hu.running.2.1,
    by simp, ?_, ?_, hkept.trans hto, ?_, ?_⟩
  · simpa [Image.get] using himg
  · simpa [Image.get] using (hother .post nofun).trans hpost
  · simpa using hu.trace
  · simpa using hu.device

/-- Settles O46: `course_program`, run with nothing pending. -/
theorem programAddressRun : Obligations.ProgramAddressRun := by
  unfold Obligations.ProgramAddressRun
  intro s r rest n hready hhalted hinputs hok hto hdevice
  obtain ⟨v, hcourse, hv, hclear, hpre, hpost, hcmd⟩ := course_program hhalted hok hto hdevice
  exact ⟨_, _, exec_programAddress_accept hready, hcourse.run rfl (s.begun_inputs .programAddress hinputs),
    State.isOk_finishOk _ hv.running.2.1, by simp, by simpa using hclear, by simpa using hpre, by simpa using hpost,
    by simpa using hv.trace, by simpa using hcmd, by simpa using hv.device⟩

/-- Settles O47: the course of steps 1 and 2 ends in the fatal check, whose records `State.onCourse` keeps, and the halted
EPB with nothing pending takes no step. -/
theorem programAddressFatalRun : Obligations.ProgramAddressFatalRun := by
  unfold Obligations.ProgramAddressFatalRun
  intro s r rest n k hready hhalted hinputs hok hto hdevice
  obtain ⟨u, hcourse, hu, hpre, hpost⟩ := course_toCheck hhalted hok hdevice
  rw [afterCheck, ProgramRun.timeoutBit_eq, hto, if_pos rfl, ProgramRun.eventsToUnlock_length _ hok] at hcourse
  have hinputs' := s.begun_inputs .programAddress hinputs
  obtain ⟨-, -, -, hsame⟩ := hcourse.sameHost rfl
  obtain ⟨-, -, -, hseen, -, hlast⟩ := (hcourse.onCourse rfl (startProgram_onCourse hhalted)).2 (by simp)
  refine ⟨_, _, exec_programAddress_accept hready, hcourse.run rfl hinputs',
    run_of_halted (by simp) (hsame.trans hinputs') k, State.isHalted_fatal _ _, by simp, hlast.trans (by simp), hseen,
    by simpa using hpre, by simpa using hpost, by simpa using hu.trace⟩

end Sys2Proof.Machine

/-! PROOFS. The words of the device port (30_encoding.md R70 to R76) and what they do in the reference device
(95_test_vectors.md RD4 to RD6). -/

namespace Sys2Proof.Machine

/-! ## A word goes out as two writes (R100) -/

section Words

variable {s : State}

/-- What a word on the device port does, and that no EPB register takes part in it (log entry 8). -/
theorem writeWord_goesOut (o : Offset) (v : Word) (hwf : Memory.wf s.window = true) :
    (s.writeWord o v).trace = s.trace ++ [.write o (loHalf v), .write (o + 2) (hiHalf v)] ∧
      (s.writeWord o v).device = (s.device.afterWrite s.params o (loHalf v)).afterWrite s.params (o + 2) (hiHalf v) ∧
      s.sameRegisters (s.writeWord o v) ∧ s.samePoint (s.writeWord o v) ∧ s.sameBytesBut o (s.writeWord o v) ∧
      Memory.readHalf (s.writeWord o v).window o = loHalf v ∧
      Memory.readHalf (s.writeWord o v).window (o + 2) = hiHalf v := by
  refine ⟨by rw [writeWord_eq], by rw [writeWord_eq], ?_, ?_, sameBytesBut_of_register o _ _ rfl,
    Memory.readHalf_register_low hwf _ _ _, Memory.readHalf_register_high hwf _ _ _⟩
  · simp [State.sameRegisters, State.sameLatches, State.sameRecords, State.sameHost]
  · simp [State.samePoint]

end Words

/-- Settles O51: each of the eight words is one `writeWord` at E2P_CMD. -/
theorem commandWordsGoOut : Obligations.CommandWordsGoOut := by
  unfold Obligations.CommandWordsGoOut
  intro f s i hi hwf
  obtain ⟨c, rfl⟩ : ∃ c, i = Instr.ofCmd c f := by
    rcases hi with rfl | rfl | rfl | rfl | rfl | rfl | rfl | rfl
    exacts [⟨.read, rfl⟩, ⟨.ewds, rfl⟩, ⟨.ewen, rfl⟩, ⟨.write, rfl⟩, ⟨.wral, rfl⟩, ⟨.erase, rfl⟩, ⟨.eral, rfl⟩,
      ⟨.reload, rfl⟩]
  rw [encode_ofCmd]
  exact ⟨_, exec_ofCmd c f s, writeWord_goesOut _ _ hwf⟩

/-- Settles O52: the indirect word is one `writeWord` at MAC_CSR_CMD, and its halves are the index and 0xC000. -/
theorem indirectWordGoesOut : Obligations.IndirectWordGoesOut := by
  unfold Obligations.IndirectWordGoesOut
  intro x s hwf
  obtain ⟨htrace, -, hrest⟩ := writeWord_goesOut s.params.macCsrCmd (macShadowWord x) hwf
  rw [loHalf_macShadowWord, hiHalf_macShadowWord] at htrace hrest
  exact ⟨_, exec_macCsrReadShadow x s, htrace, hrest⟩

/-! ## The two words of a submission (R122) -/

/-- The command word's fields with nothing but BUSY and ADDR set (R72). -/
def plainFields (busy : BitVec 1) (a : Byte) : CmdFields :=
  { busy, undescribed := 0, timeout := 0, macAddrLoaded := 0, addr := a }

theorem exec_plainWord (busy : Bool) (c : Cmd) (a : Byte) (s : State) :
    exec (Instr.ofCmd c (plainFields (BitVec.ofBool busy) a)) s =
      .next (s.writeWord s.params.e2pCmd (cmdWord busy c a)) := by
  rw [exec_ofCmd, plainFields, cmdWordOf_eq_cmdWord]

/-- Settles O53: both sides are the same four writes. -/
theorem submitIsTwoCommandWords : Obligations.SubmitIsTwoCommandWords := by
  unfold Obligations.SubmitIsTwoCommandWords
  intro c a s s1 s2 s3 s4 s5 w1 w2 hready hhalted hs1 hs2 hs3 hs4 hs5 hw1 hw2
  have hphase1 := State.submitting_accept (c := c) (a := a) hhalted
  have hphase2 := hphase1.setCmdst .issue2
  cases (exec_submit_accept hready).symm.trans hs1
  cases hs2.symm.trans (exec_submit_issue1_low hphase1 (by simp))
  cases hs3.symm.trans (exec_submit_issue1_high hphase1 rfl)
  cases hs4.symm.trans (exec_submit_issue2_low hphase2 rfl)
  cases hs5.symm.trans (exec_submit_issue2_high hphase2 rfl)
  cases hw1.symm.trans (exec_plainWord false c a s)
  cases hw2.symm.trans (exec_plainWord true c a _)
  simp [State.samePort, writeWord_eq]

/-! ## The reference device's command register (RD4, RD5) -/

namespace RefDevice

/-- RD4, RD5: the reference device after the four writes of a submission. -/
def submitted (c : Cmd) (a : Byte) (r : RefDevice) : RefDevice :=
  { RefDevice.start c a { r with lo := loHalf (cmdWord true c a), last15 := false } with last15 := true }

/-- RD5: a word with BUSY = 0 starts nothing. -/
theorem writeCmdHi_idle (c : Cmd) (a : Byte) (r : RefDevice) :
    r.writeCmdHi (hiHalf (cmdWord false c a)) = { r with last15 := false } := by
  simp only [RefDevice.writeCmdHi, hiHalf_cmdWord_busy, Bool.false_and, Bool.false_eq_true, if_false]

/-- RD5: after BUSY = 0 a word with BUSY = 1 starts its command. -/
theorem writeCmdHi_starts (c : Cmd) (a : Byte) (r : RefDevice) :
    ({ r with lo := loHalf (cmdWord true c a), last15 := false } : RefDevice).writeCmdHi (hiHalf (cmdWord true c a)) =
      r.submitted c a := by
  simp only [RefDevice.writeCmdHi, hiHalf_cmdWord_busy, Bool.not_false, Bool.and_self, if_true, hiHalf_cmdWord_cmd,
    Cmd.ofCode_code, loHalf_cmdWord_addr, submitted]

end RefDevice

section Device

variable {p : Params} {d : Device} {r : RefDevice}

theorem afterWrite_cmdLow (h : d.ref = some r) (v : Half) :
    d.afterWrite p p.e2pCmd v = { d with ref := some { r with lo := v } } := by
  simp [Device.afterWrite, h]

theorem afterWrite_cmdHigh (h : d.ref = some r) (v : Half) :
    d.afterWrite p (p.e2pCmd + 2) v = { d with ref := some (r.writeCmdHi v) } := by
  have hne := high_ne_low p.e2pCmd
  simp only [Device.afterWrite, h, hne, if_false, if_true]

/-- RD4, RD5: both halves of a command word. -/
theorem afterWrite_cmdWord (h : d.ref = some r) (v : Word) :
    (d.afterWrite p p.e2pCmd (loHalf v)).afterWrite p (p.e2pCmd + 2) (hiHalf v) =
      { d with ref := some (RefDevice.writeCmdHi (hiHalf v) { r with lo := loHalf v }) } := by
  rw [afterWrite_cmdLow h, afterWrite_cmdHigh rfl]

/-- RD4, RD5: the four writes of a submission. -/
theorem afterWrite_submit (h : d.ref = some r) (c : Cmd) (a : Byte) :
    (((d.afterWrite p p.e2pCmd (loHalf (cmdWord false c a))).afterWrite p (p.e2pCmd + 2)
      (hiHalf (cmdWord false c a))).afterWrite p p.e2pCmd (loHalf (cmdWord true c a))).afterWrite p (p.e2pCmd + 2)
        (hiHalf (cmdWord true c a)) = { d with ref := some (r.submitted c a) } := by
  rw [afterWrite_cmdWord h, afterWrite_cmdWord rfl, RefDevice.writeCmdHi_idle, RefDevice.writeCmdHi_starts]
  rfl

end Device

theorem setIfInBounds_eq_set {v : Vector Byte 32} {n : Nat} (h : n < 32) (b : Byte) :
    v.setIfInBounds n b = v.set n b h := by
  ext j hj
  rw [Vector.getElem_setIfInBounds, Vector.getElem_set]

/-- Settles O54: the two words are a submission, whose start has the effect of RD6. -/
theorem referenceCommandEffects : Obligations.ReferenceCommandEffects := by
  unfold Obligations.ReferenceCommandEffects
  intro c a s r _ href hpresent
  refine ⟨_, _, r.submitted c a, exec_plainWord false c a s, exec_plainWord true c a _, ?_, ?_⟩
  · exact congrArg Device.ref (afterWrite_submit href c a)
  · have hstart : r.submitted c a =
        { RefDevice.effect c a { r with lo := loHalf (cmdWord true c a), last15 := false, bc := r.b, tmo := false } with
          last15 := true } := by
      simp [RefDevice.submitted, RefDevice.start, hpresent]
    rw [hstart]
    cases c with
    | read =>
      by_cases ha : a.toNat < 32
      · simp [RefDevice.effect, ha, dataWord]
      · simp [RefDevice.effect, ha]
    | ewds | ewen => simp [RefDevice.effect]
    | reload => simpa [RefDevice.effect] using beq_eq_decide (a := r.cells[0]) (b := 0xA5)
    | write | erase =>
      cases r.we with
      | true =>
        by_cases ha : a.toNat < 32
        · simp [RefDevice.effect, ha, setIfInBounds_eq_set ha]
        · simp [RefDevice.effect, ha, Vector.setIfInBounds_eq_of_size_le (Nat.le_of_not_lt ha)]
      | false => simp [RefDevice.effect]
    | wral | eral =>
      cases r.we with
      | true => simp [RefDevice.effect]
      | false => simp [RefDevice.effect]

end Sys2Proof.Machine

/-! PROOFS. The device behind a course: a course of PROGRAM_ADDRESS depends on the device only through what it answers, so a
device that answers as a live one did takes the same course (20_memory.md R56). -/

namespace Sys2Proof.Machine

/-! ## A device that answers as a trace says -/

/-- The device after the transaction `e`. -/
def Device.after (p : Params) (d : Device) : BusEvent → Device
  | .write o v => d.afterWrite p o v
  | .read o _ => d.afterRead p o

/-- The transaction `e` may go over this device's port: a read returns what the device answers, whatever the window
holds. -/
def Device.agrees (p : Params) (d : Device) : BusEvent → Prop
  | .write _ _ => True
  | .read o v => ∀ mem, d.answer p o mem = v

/-- The device `d` answers as the trace says, and ends as `d'`. -/
def Device.replays (p : Params) : Device → List BusEvent → Device → Prop
  | d, [], d' => d' = d
  | d, e :: es, d' => d.agrees p e ∧ (d.after p e).replays p es d'

theorem Device.replays.append {p : Params} {d d' d'' : Device} {es es' : List BusEvent} (h : d.replays p es d')
    (h' : d'.replays p es' d'') : d.replays p (es ++ es') d'' := by
  induction es generalizing d with
  | nil =>
    obtain rfl := h
    exact h'
  | cons e es ih => exact ⟨h.1, ih h.2⟩

/-! ## One transaction step behind another device -/

def State.withDevice (d : Device) (s : State) : State := { s with device := d }

/-- A rest of a step that neither sees the device nor issues a transaction. -/
def DeviceFree (k : State → State) : Prop :=
  ∀ u, (k u).trace = u.trace ∧ ∀ d, k (u.withDevice d) = (k u).withDevice d

/-- From `s` to `t` one transaction went over the port, and it leads to `t'` from `s` with the device `d` in its place, if that
device agrees with it. -/
def Mirrored (d : Device) (s t t' : State) : Prop :=
  ∃ e, t.trace = s.trace ++ [e] ∧ (d.agrees s.params e → t' = t.withDevice (d.after s.params e))

section Mirrored

variable {s : State} {d : Device}

theorem DeviceFree.mirrored {k : State → State} (hk : DeviceFree k) {t t' : State} (h : Mirrored d s t t') :
    Mirrored d s (k t) (k t') := by
  obtain ⟨e, htrace, hagrees⟩ := h
  obtain ⟨hquiet, hfree⟩ := hk t
  exact ⟨e, hquiet.trans htrace, fun h => by rw [hagrees h, hfree]⟩

theorem writeRegister_mirrored (o : Offset) (v : Word) {k : State → State} (hk : DeviceFree k) :
    Mirrored d s (s.writeRegister o v k) ((s.withDevice d).writeRegister o v k) := by
  refine State.writeRegister_cases (fun t => Mirrored d s t ((s.withDevice d).writeRegister o v k)) o v k
    (fun hl => ?low) (fun hh => ?high)
  case low =>
    rw [State.writeRegister_low (s := s.withDevice d) o v k hl]
    exact ⟨.write o (loHalf v), rfl, fun _ => rfl⟩
  case high =>
    rw [State.writeRegister_high (s := s.withDevice d) o v k hh]
    exact hk.mirrored ⟨.write (o + 2) (hiHalf v), rfl, fun _ => rfl⟩

/-- What the other device answers, where it agrees with the read. -/
theorem readValue_of_agrees {o : Offset} (h : d.agrees s.params (.read o (s.readValue o))) :
    (s.withDevice d).readValue o = s.readValue o := h _

theorem readRegister_mirrored (o : Offset) {k : Word → State → State} (hk : ∀ v, DeviceFree (k v)) :
    Mirrored d s (s.readRegister o k) ((s.withDevice d).readRegister o k) := by
  refine State.readRegister_cases (fun t => Mirrored d s t ((s.withDevice d).readRegister o k)) o k
    (fun hl => ?low) (fun hh => ?high)
  case low =>
    refine ⟨.read o (s.readValue o), rfl, fun h => ?_⟩
    rw [State.readRegister_low (s := s.withDevice d) o k hl, State.portRead, readValue_of_agrees h]
    rfl
  case high =>
    obtain ⟨hquiet, hfree⟩ := hk (joinHalves (s.readValue (o + 2)) s.latchLo) ((s.portRead (o + 2)).setHalf false)
    refine ⟨.read (o + 2) (s.readValue (o + 2)), hquiet, fun h => ?_⟩
    rw [State.readRegister_high (s := s.withDevice d) o k hh, ← hfree, State.portRead, readValue_of_agrees h]
    rfl

theorem deviceFree_setCmdst (c : CmdSt) : DeviceFree (State.setCmdst c) := fun _ => ⟨rfl, fun _ => rfl⟩

theorem deviceFree_finishOk (v : Word) : DeviceFree (State.finishOk v) := fun _ => ⟨by simp, fun _ => rfl⟩

theorem poll_mirrored {k : Word → State → State} (hk : ∀ v, DeviceFree (k v)) :
    Mirrored d s (s.poll k) ((s.withDevice d).poll k) := by
  refine readRegister_mirrored s.params.e2pCmd fun v u => ?_
  split
  · exact ⟨rfl, fun _ => rfl⟩
  · exact hk v (u.setLastCmd v)

theorem checkTimeout_mirrored {k : Word → State → State} (hk : ∀ v, DeviceFree (k v)) :
    Mirrored d s (s.checkTimeout k) ((s.withDevice d).checkTimeout k) := by
  refine readRegister_mirrored s.params.e2pCmd fun v u => ?_
  split
  · exact ⟨by simp, fun _ => rfl⟩
  · exact hk v ((u.setLastCmd v).setTo false)

theorem CellOp.deviceFree_afterBusy (op : CellOp) {k : Word → State → State} (hk : ∀ v, DeviceFree (k v)) (v : Word) :
    DeviceFree (op.afterBusy k v) := by
  cases op with
  | read | unlock => exact deviceFree_setCmdst _
  | write | lock => exact hk v

/-- The result `r'` mirrors each next state of `r`. -/
def MirroredResult (d : Device) (s : State) (r r' : Result) : Prop :=
  Ensures (fun t => ∃ t', r' = .next t' ∧ Mirrored d s t t') r

theorem MirroredResult.next {t t' : State} (h : Mirrored d s t t') : MirroredResult d s (.next t) (.next t') :=
  Ensures.next ⟨t', rfl, h⟩

theorem MirroredResult.guarded {c : Prop} [Decidable c] {t t' : State} {f : Fault} (h : Mirrored d s t t') :
    MirroredResult d s (if c then .next t else .fault f) (if c then .next t' else .fault f) := by
  split
  · exact .next h
  · exact Ensures.fault _ f

theorem cellStep_mirrored (op : CellOp) {k : Word → State → State} (hk : ∀ v, DeviceFree (k v)) :
    MirroredResult d s (s.cellStep op k) ((s.withDevice d).cellStep op k) := by
  have label := deviceFree_setCmdst
  have hcmdst : (s.withDevice d).cmdst = s.cmdst := rfl
  unfold State.cellStep
  rw [hcmdst]
  cases s.cmdst with
  | prewait => exact .next (poll_mirrored fun _ => label _)
  | data => exact .guarded (writeRegister_mirrored _ _ (label _))
  | issue1 => exact .next (writeRegister_mirrored _ _ (label _))
  | issue2 => exact .next (writeRegister_mirrored _ _ (label _))
  | busy => exact .next (poll_mirrored (op.deviceFree_afterBusy hk))
  | check => exact .guarded (checkTimeout_mirrored hk)
  | read => exact .guarded (readRegister_mirrored _ hk)
  | idle | complete | timeout | xfer => exact Ensures.fault _ _

end Mirrored

/-! ## PROGRAM_ADDRESS behind another device -/

theorem deviceFree_dumpNext (im : Image) {j : State → State} (hj : DeviceFree j) (v : Word) :
    DeviceFree (dumpNext im.set j v) := by
  intro u
  have hcell (d : Device) : (u.withDevice d).cell = u.cell := rfl
  have hset (d : Device) (c : CellIx) (b : Byte) : im.set c b (u.withDevice d) = (im.set c b u).withDevice d := by
    cases im <;> rfl
  have htrace (c : CellIx) (b : Byte) : (im.set c b u).trace = u.trace := by cases im <;> rfl
  unfold dumpNext
  simp only [hcell, hset]
  split
  · obtain ⟨hquiet, hfree⟩ := hj (im.set u.cell (dataByte v) u)
    exact ⟨hquiet.trans (htrace _ _), hfree⟩
  · exact ⟨by simp [htrace], fun _ => rfl⟩

theorem deviceFree_writeNext : DeviceFree writeNext := by
  intro u
  have hcell (d : Device) : (u.withDevice d).cell = u.cell := rfl
  unfold writeNext
  simp only [hcell]
  split
  · exact ⟨by simp, fun _ => rfl⟩
  · exact ⟨by simp, fun _ => rfl⟩

theorem programStep_mirrored (d : Device) (s : State) :
    MirroredResult d s (programStep s) (programStep (s.withDevice d)) := by
  have hseqst : (s.withDevice d).seqst = s.seqst := rfl
  unfold programStep
  rw [hseqst]
  cases s.seqst with
  | dumpPre =>
    exact cellStep_mirrored .read (deviceFree_dumpNext .pre fun _ => ⟨by simp, fun _ => rfl⟩)
  | unlock | lock => exact cellStep_mirrored _ fun _ _ => ⟨by simp, fun _ => rfl⟩
  | write => exact cellStep_mirrored _ fun _ => deviceFree_writeNext
  | dumpPost => exact cellStep_mirrored .read (deviceFree_dumpNext .post (deviceFree_finishOk 0))
  | idle | single | halted => exact Ensures.fault _ _

/-- A device that answers as the course's trace says takes the same course. -/
theorem Course.mirrored {n : Nat} {s t : State} (hc : Course .programAddress n s t) :
    ∃ es, t.trace = s.trace ++ es ∧
      ∀ d d', d.replays s.params es d' → Course .programAddress n (s.withDevice d) (t.withDevice d') := by
  induction hc with
  | nil s =>
    refine ⟨[], by simp, fun d d' h => ?_⟩
    obtain rfl := h
    exact .nil _
  | @cons n s u t running step rest ih =>
    obtain ⟨es, htrace, hcourse⟩ := ih
    obtain ⟨⟨-, -, hparams, -⟩, -⟩ := exec_running_transacts rfl running u step
    have hrunning (d : Device) : (s.withDevice d).running .programAddress := running
    rw [exec_programAddress_running running] at step
    obtain ⟨u', -, e, hevent, -⟩ := programStep_mirrored s.device s u step
    refine ⟨e :: es, by rw [htrace, hevent, List.append_assoc, List.singleton_append], fun d d' ⟨hagrees, hreplays⟩ => ?_⟩
    obtain ⟨u', hstep, e', hevent', hmirror⟩ := programStep_mirrored d s u step
    obtain rfl : e' = e := by simpa [hevent] using hevent'.symm
    rw [← hparams] at hreplays
    refine .cons (hrunning d) ((exec_programAddress_running (hrunning d)).trans hstep) ?_
    rw [hmirror hagrees, ← hparams]
    exact hcourse _ d' hreplays

end Sys2Proof.Machine

/-! PROOFS. The reference device under the EPB's cell operations (95_test_vectors.md RD4 to RD9): what it answers to each, and
what each leaves of its array. -/

namespace Sys2Proof.Machine

/-! ## What the reference device answers to a trace -/

/-- From `r` the reference device answers as the trace says, and ends as `r'`. -/
def RefDevice.plays (p : Params) (r : RefDevice) (es : List BusEvent) (r' : RefDevice) : Prop :=
  ∀ d : Device, Device.replays p { d with ref := some r } es { d with ref := some r' }

section Plays

variable {p : Params} {r r' r'' : RefDevice} {es es' : List BusEvent}

theorem RefDevice.plays.nil (p : Params) (r : RefDevice) : r.plays p [] r := fun _ => rfl

theorem RefDevice.plays.append (h : r.plays p es r') (h' : r'.plays p es' r'') : r.plays p (es ++ es') r'' :=
  fun d => (h d).append (h' d)

theorem RefDevice.plays_read {o : Offset} {v : Half}
    (hanswer : ∀ (d : Device) mem, Device.answer p o mem { d with ref := some r } = v)
    (hafter : ∀ d : Device, Device.afterRead p o { d with ref := some r } = { d with ref := some r' }) :
    r.plays p [.read o v] r' :=
  fun d => ⟨hanswer d, (hafter d).symm⟩

/-- The four registers' offsets are apart (R10). -/
theorem macCsrCmd_apart (hvalid : p.valid = true) :
    (p.e2pCmd ≠ p.macCsrCmd ∧ p.e2pCmd ≠ p.macCsrCmd + 2) ∧ (p.e2pData ≠ p.macCsrCmd ∧ p.e2pData ≠ p.macCsrCmd + 2) ∧
      p.e2pData + 2 ≠ p.macCsrCmd ∧ p.e2pData + 2 ≠ p.macCsrCmd + 2 := by
  simp only [Params.valid, Params.offsetOk, Params.apart, Bool.and_eq_true, Bool.or_eq_true, decide_eq_true_eq] at hvalid
  refine ⟨⟨?_, ?_⟩, ⟨?_, ?_⟩, ?_, ?_⟩ <;> bv_omega

variable (hvalid : p.valid = true)

include hvalid

/-! ## Register accesses (RD4, RD7 to RD9) -/

/-- RD7: the low half of the command register. -/
theorem RefDevice.plays_cmdLow (r : RefDevice) : r.plays p [.read p.e2pCmd r.statusLo] r := by
  obtain ⟨⟨hne, hne'⟩, -⟩ := macCsrCmd_apart hvalid
  have hself := (high_ne_low p.e2pCmd).symm
  exact plays_read (fun d mem => by simp only [Device.answer, if_true])
    (fun d => by simp only [Device.afterRead, hne, hne', hself, or_self, if_false])

omit hvalid in
/-- RD8: the high half of the command register, which counts the busy period down. -/
theorem RefDevice.plays_cmdHigh (r : RefDevice) :
    r.plays p [.read (p.e2pCmd + 2) r.statusHi] { r with bc := r.bc - 1 } :=
  plays_read (fun d mem => by simp [Device.answer]) (fun d => by simp [Device.afterRead])

theorem RefDevice.plays_dataLow (r : RefDevice) : r.plays p [.read p.e2pData (loHalf r.data)] r := by
  obtain ⟨hne, hne', -⟩ := e2pCmd_apart_e2pData hvalid
  obtain ⟨-, ⟨hne'', hne'''⟩, -⟩ := macCsrCmd_apart hvalid
  exact plays_read (fun d mem => by simp only [Device.answer, hne, hne', if_false, if_true])
    (fun d => by simp only [Device.afterRead, hne', hne'', hne''', or_self, if_false])

theorem RefDevice.plays_dataHigh (r : RefDevice) : r.plays p [.read (p.e2pData + 2) (hiHalf r.data)] r := by
  obtain ⟨-, -, hne, hne'⟩ := e2pCmd_apart_e2pData hvalid
  obtain ⟨-, -, hne'', hne'''⟩ := macCsrCmd_apart hvalid
  have hself := high_ne_low p.e2pData
  exact plays_read (fun d mem => by simp only [Device.answer, hne, hne', hself, if_false, if_true])
    (fun d => by simp only [Device.afterRead, hne', hne'', hne''', or_self, if_false])

/-- RD9: the data register takes a written word. -/
theorem RefDevice.plays_writeData (r : RefDevice) (v : Word) :
    r.plays p (writeEvents p.e2pData v) { r with data := v } := by
  obtain ⟨hne, hne', hne'', hne'''⟩ := e2pCmd_apart_e2pData hvalid
  have hself := high_ne_low p.e2pData
  have hjoin (x : Word) : joinHalves (hiHalf v) (loHalf (joinHalves (hiHalf x) (loHalf v))) = v := by
    have hlow : loHalf (joinHalves (hiHalf x) (loHalf v)) = loHalf v := BitVec.extractLsb'_append_eq_right
    rw [hlow, joinHalves_hiHalf_loHalf]
  intro d
  refine ⟨trivial, trivial, ?_⟩
  simp only [Device.replays, Device.after, Device.afterWrite, hne, hne', hne'', hne''', hself, if_false, if_true, hjoin]

omit hvalid in
/-- RD4, RD5: a submission. -/
theorem RefDevice.plays_submit (r : RefDevice) (c : Cmd) (a : Byte) :
    r.plays p (submitEvents p c a) (r.submitted c a) :=
  fun d => ⟨trivial, trivial, trivial, trivial, (afterWrite_submit (d := { d with ref := some r }) rfl c a).symm⟩

/-! ## Waits (RD8) -/

/-- What the reference device answers to a wait: BUSY while its counter runs. -/
def RefDevice.wait (r : RefDevice) : Wait :=
  { busy := List.replicate r.bc { lo := r.statusLo, hi := 0x8000 }, last := { lo := r.statusLo, hi := 0 } }

omit hvalid in
theorem RefDevice.wait_ok (r : RefDevice) : r.wait.ok = true := by
  simp [RefDevice.wait, Wait.ok]

theorem RefDevice.plays_poll (r : RefDevice) :
    r.plays p (ReadPair.events p.e2pCmd { lo := r.statusLo, hi := r.statusHi }) { r with bc := r.bc - 1 } :=
  (r.plays_cmdLow hvalid).append r.plays_cmdHigh

theorem RefDevice.plays_wait (r : RefDevice) : r.plays p (r.wait.events p) { r with bc := 0 } := by
  generalize hbc : r.bc = n
  induction n generalizing r with
  | zero =>
    have hpoll := r.plays_poll hvalid
    have hidle : r.statusHi = 0 := by simp [RefDevice.statusHi, hbc]
    rw [hidle, hbc] at hpoll
    simpa [RefDevice.wait, Wait.events, Wait.polls, hbc] using hpoll
  | succ n ih =>
    have hpoll := r.plays_poll hvalid
    have hbusy : r.statusHi = 0x8000 := by simp [RefDevice.statusHi, hbc]
    rw [hbusy, hbc, Nat.add_sub_cancel] at hpoll
    have hrest := hpoll.append (ih { r with bc := n } rfl)
    have hlow : ({ r with bc := n } : RefDevice).statusLo = r.statusLo := rfl
    simpa [RefDevice.wait, Wait.events, Wait.polls, hbc, hlow, List.replicate_succ] using hrest

/-! ## Cell operations (R125, RD6) -/

/-- The reference device after the cell operation `op` on cell `c`, writing the byte `b` in `writeCell`. -/
def RefDevice.afterOp (op : CellOp) (c : CellIx) (b : Byte) (r : RefDevice) : RefDevice :=
  let ready : RefDevice := { r with bc := 0, data := if op = .write then dataWord b else r.data }
  { ready.submitted op.cmd (cellAddr c) with bc := 0 }

/-- What it answers to the tail read. -/
def RefDevice.tail (op : CellOp) (r : RefDevice) : ReadPair :=
  if op = .read then { lo := loHalf r.data, hi := hiHalf r.data } else { lo := r.statusLo, hi := r.statusHi }

/-- What the reference device answers in the course of a cell operation. -/
theorem RefDevice.exists_cellRun (op : CellOp) (c : CellIx) (b : Byte) (r : RefDevice) :
    ∃ run : CellRun, run.ok = true ∧ run.tail = (r.afterOp op c b).tail op ∧
      r.plays p (run.events p op c b) (r.afterOp op c b) := by
  let ready : RefDevice := { r with bc := 0, data := if op = .write then dataWord b else r.data }
  let started := ready.submitted op.cmd (cellAddr c)
  have hdata : ({ r with bc := 0 } : RefDevice).plays p
      (if op = .write then writeEvents p.e2pData (dataWord b) else []) ready := by
    by_cases hop : op = .write
    · have hwritten := RefDevice.plays_writeData hvalid { r with bc := 0 } (dataWord b)
      simpa only [ready, hop, if_true] using hwritten
    · simpa only [ready, hop, if_false] using RefDevice.plays.nil p { r with bc := 0 }
  have hwait : started.plays p (started.wait.events p) (r.afterOp op c b) := started.plays_wait hvalid
  have htail : (r.afterOp op c b).plays p
      (if op.hasTail then ((r.afterOp op c b).tail op).events (op.tailOff p) else []) (r.afterOp op c b) := by
    cases op with
    | read => exact ((r.afterOp .read c b).plays_dataLow hvalid).append ((r.afterOp .read c b).plays_dataHigh hvalid)
    | unlock => exact (r.afterOp .unlock c b).plays_poll hvalid
    | write | lock => exact RefDevice.plays.nil p _
  refine ⟨{ pre := r.wait, post := started.wait, tail := (r.afterOp op c b).tail op }, ?_, rfl, ?_⟩
  · simp [CellRun.ok, RefDevice.wait_ok]
  · exact ((((r.plays_wait hvalid).append hdata).append (ready.plays_submit op.cmd (cellAddr c))).append hwait).append
      htail

end Plays

end Sys2Proof.Machine

/-! PROOFS. PROGRAM_ADDRESS on the reference device (43_sequencer.md R167, 95_test_vectors.md W7): what it answers in the course
of the five steps, and what they leave of its array. -/

namespace Sys2Proof.Machine

namespace RefDevice

variable {r : RefDevice}

/-! ## What a cell operation leaves (RD6) -/

theorem cellAddr_toNat (c : CellIx) : (cellAddr c).toNat = c.toNat := by
  unfold cellAddr
  bv_omega

theorem dataByte_dataWord (b : Byte) : dataByte (dataWord b) = b := by
  ext j hj
  have hword : j < 32 := by omega
  simp [dataByte, dataWord, hword, BitVec.getLsbD_eq_getElem hj]

/-- The array and its lock are those of the other device. -/
def sameArray (r r' : RefDevice) : Prop := r'.cells = r.cells ∧ r'.present = r.present ∧ r'.we = r.we

theorem afterOp_read (c : CellIx) (b : Byte) (r : RefDevice) : r.sameArray (r.afterOp .read c b) := by
  cases hpresent : r.present with
  | true => simp [sameArray, afterOp, submitted, start, hpresent, effect, CellOp.cmd]
  | false => simp [sameArray, afterOp, submitted, start, hpresent]

/-- R140: the byte that a `readCell` returns. -/
theorem dataByte_tail_read (hpresent : r.present = true) (c : CellIx) (b : Byte) :
    dataByte ((r.afterOp .read c b).tail .read).value = r.cells[c.toNat]'c.isLt := by
  have hdata : (r.afterOp .read c b).data = dataWord (r.cells[c.toNat]'c.isLt) := by
    have haddr := cellAddr_toNat c
    have hlt := c.isLt
    simp [afterOp, submitted, start, hpresent, effect, CellOp.cmd, haddr, hlt]
  rw [tail, if_pos rfl, ReadPair.value, joinHalves_hiHalf_loHalf, hdata, dataByte_dataWord]

theorem timeout_tail_unlock (r : RefDevice) : (r.tail .unlock).lo.getLsbD 9 = r.tmo := by
  have hlo : (r.tail .unlock).lo = r.statusLo := by rw [tail, if_neg (by decide)]
  rw [hlo, statusLo]
  cases r.tmo <;> cases r.mal <;> rfl

theorem afterOp_unlock (hpresent : r.present = true) (c : CellIx) (b : Byte) :
    (r.afterOp .unlock c b).cells = r.cells ∧ (r.afterOp .unlock c b).present = true ∧
      (r.afterOp .unlock c b).we = true ∧ (r.afterOp .unlock c b).tmo = false := by
  simp [afterOp, submitted, start, hpresent, effect, CellOp.cmd]

/-- RD6: with no EEPROM attached the unlock times out. -/
theorem afterOp_unlock_absent (hpresent : r.present = false) (c : CellIx) (b : Byte) :
    (r.afterOp .unlock c b).cells = r.cells ∧ (r.afterOp .unlock c b).tmo = true := by
  simp [afterOp, submitted, start, hpresent]

theorem afterOp_write (hpresent : r.present = true) (hwe : r.we = true) (c : CellIx) (b : Byte) :
    (r.afterOp .write c b).cells = r.cells.set c.toNat b c.isLt ∧ (r.afterOp .write c b).present = true ∧
      (r.afterOp .write c b).we = true := by
  have haddr := cellAddr_toNat c
  have hset := setIfInBounds_eq_set (v := r.cells) c.isLt b
  simp [afterOp, submitted, start, hpresent, effect, CellOp.cmd, haddr, hwe, dataByte_dataWord, hset]

theorem afterOp_lock (hpresent : r.present = true) (c : CellIx) (b : Byte) :
    (r.afterOp .lock c b).cells = r.cells ∧ (r.afterOp .lock c b).present = true ∧ (r.afterOp .lock c b).we = false := by
  simp [afterOp, submitted, start, hpresent, effect, CellOp.cmd]

/-! ## The five steps (R162) -/

variable {p : Params} (hvalid : p.valid = true)

include hvalid

/-- R160: a dump of the cells from `c` on reads them, and keeps the array. -/
theorem exists_dump (n : Nat) {c : Nat} (hc : c + n = 32) (r : RefDevice) :
    ∃ rs r', rs.length = n ∧ rs.all CellRun.ok = true ∧ r.plays p (dumpEvents p c rs) r' ∧ r.sameArray r' ∧
      (r.present = true → dumpImage rs = r.cells.toList.drop c) := by
  induction n generalizing c r with
  | zero =>
    exact ⟨[], r, rfl, rfl, .nil p r, ⟨rfl, rfl, rfl⟩, fun _ => by simp [dumpImage, List.drop_eq_nil_of_le, hc.symm]⟩
  | succ n ih =>
    obtain ⟨run, hok, htail, hplays⟩ := exists_cellRun hvalid .read (BitVec.ofNat 5 c) 0 r
    obtain ⟨hcells, hpresent, hwe⟩ := afterOp_read (BitVec.ofNat 5 c) 0 r
    obtain ⟨rs, r', hlen, hoks, hplays', ⟨hcells', hpresent', hwe'⟩, himg⟩ :=
      ih (c := c + 1) (by omega) (r.afterOp .read (BitVec.ofNat 5 c) 0)
    refine ⟨run :: rs, r', by rw [List.length_cons, hlen], by simp [hok, hoks], hplays.append hplays',
      ⟨hcells'.trans hcells, hpresent'.trans hpresent, hwe'.trans hwe⟩, fun h => ?_⟩
    have hlt : c < 32 := by omega
    have hbyte : run.byte = r.cells.toList[c]'(by simpa using hlt) := by
      have hnat : (BitVec.ofNat 5 c).toNat = c := Nat.mod_eq_of_lt hlt
      rw [CellRun.byte, htail, dataByte_tail_read h]
      simp [hnat]
    rw [List.drop_eq_getElem_cons (by simpa using hlt), ← hbyte, ← hcells, ← himg (hpresent.trans h)]
    rfl

/-- R162, step 3: the writes from cell `c` on set their cells, and no other. -/
theorem exists_writes (bs : List Byte) {c : Nat} (hc : c + bs.length ≤ 32) (r : RefDevice) (hpresent : r.present = true)
    (hwe : r.we = true) :
    ∃ rs r', rs.length = bs.length ∧ rs.all CellRun.ok = true ∧ r.plays p (writesEvents p c bs rs) r' ∧
      r'.present = true ∧ ∀ (j : Nat) (hj : j < 32), r'.cells[j] = if c ≤ j then bs[j - c]?.getD r.cells[j] else r.cells[j] := by
  induction bs generalizing c r with
  | nil => exact ⟨[], r, rfl, rfl, .nil p r, hpresent, fun j hj => by simp⟩
  | cons b bs ih =>
    rw [List.length_cons] at hc
    obtain ⟨run, hok, -, hplays⟩ := exists_cellRun hvalid .write (BitVec.ofNat 5 c) b r
    obtain ⟨hcells, hpresent', hwe'⟩ := afterOp_write hpresent hwe (BitVec.ofNat 5 c) b
    obtain ⟨rs, r', hlen, hoks, hplays', hpresent'', hall⟩ :=
      ih (c := c + 1) (by omega) (r.afterOp .write (BitVec.ofNat 5 c) b) hpresent' hwe'
    refine ⟨run :: rs, r', by simp [hlen], by simp [hok, hoks], hplays.append hplays', hpresent'', fun j hj => ?_⟩
    have hnat : (BitVec.ofNat 5 c).toNat = c := Nat.mod_eq_of_lt (by omega)
    have hone : (r.afterOp .write (BitVec.ofNat 5 c) b).cells[j] = if c = j then b else r.cells[j] := by
      simp only [hcells, Vector.getElem_set, hnat]
    rw [hall j hj, hone]
    rcases Nat.lt_trichotomy j c with hlt | rfl | hgt
    · rw [if_neg (by omega), if_neg (by omega), if_neg (by omega)]
    · simp
    · have hindex : j - c = j - (c + 1) + 1 := by omega
      rw [if_pos (by omega), if_neg (by omega), if_pos (by omega), hindex, List.getElem?_cons_succ]

/-- What the reference device answers to a whole PROGRAM_ADDRESS with an EEPROM attached, and what it leaves. -/
theorem exists_program (r : RefDevice) (hpresent : r.present = true) (m : Vector Byte 6) :
    ∃ (run : ProgramRun) (r' : RefDevice), run.ok = true ∧ run.timedOut = false ∧ r.plays p (run.events p m) r' ∧
      r'.we = false ∧ dumpImage run.pre = r.cells.toList ∧ dumpImage run.post = r'.cells.toList ∧
      ∀ (j : Nat) (hj : j < 32), r'.cells[j] = (programBytes m)[j]?.getD r.cells[j] := by
  obtain ⟨pre, r₁, hlenPre, hokPre, hplays₁, ⟨hcells₁, hpresent₁, -⟩, himg⟩ := exists_dump hvalid 32 (c := 0) rfl r
  obtain ⟨unlock, hokUnlock, htail, hplays₂⟩ := exists_cellRun hvalid .unlock 0 0 r₁
  obtain ⟨hcells₂, hpresent₂, hwe₂, hto⟩ := afterOp_unlock (hpresent₁.trans hpresent) 0 0
  obtain ⟨writes, r₃, hlenWrites, hokWrites, hplays₃, hpresent₃, hwritten⟩ :=
    exists_writes hvalid (programBytes m) (c := 0) (by simp [programBytes]) (r₁.afterOp .unlock 0 0) hpresent₂ hwe₂
  obtain ⟨lock, hokLock, -, hplays₄⟩ := exists_cellRun hvalid .lock 0 0 r₃
  obtain ⟨hcells₄, hpresent₄, hwe₄⟩ := afterOp_lock hpresent₃ 0 0
  obtain ⟨post, r', hlenPost, hokPost, hplays₅, ⟨hcells', hpresent', hwe'⟩, himg'⟩ :=
    exists_dump hvalid 32 (c := 0) rfl (r₃.afterOp .lock 0 0)
  refine ⟨⟨pre, unlock, writes, lock, post⟩, r', ?_, ?_, ?_, hwe'.trans hwe₄, ?_, ?_, fun j hj => ?_⟩
  · have hseven : writes.length = 7 := by simpa [programBytes] using hlenWrites
    simp [ProgramRun.ok, hlenPre, hseven, hlenPost, hokPre, hokUnlock, hokWrites, hokLock, hokPost]
  · rw [ProgramRun.timedOut, htail, timeout_tail_unlock, hto]
  · exact (((hplays₁.append hplays₂).append hplays₃).append hplays₄).append hplays₅
  · exact himg hpresent
  · rw [himg' hpresent₄, hcells', List.drop_zero]
  · simp only [hcells', hcells₄, hwritten j hj, Nat.zero_le, if_true, Nat.sub_zero, hcells₂, hcells₁]

/-- A cell operation against a device that is idle at once. -/
def idleRun : CellRun := { pre := ⟨[], ⟨0, 0⟩⟩, post := ⟨[], ⟨0, 0⟩⟩, tail := ⟨0, 0⟩ }

/-- What it answers, without an EEPROM, to the steps up to the unlock, whose check sees TIMEOUT. -/
theorem exists_fatal (r : RefDevice) (hpresent : r.present = false) :
    ∃ (run : ProgramRun) (r' : RefDevice), run.ok = true ∧ run.timedOut = true ∧
      r.plays p (run.eventsToUnlock p) r' ∧ r'.cells = r.cells := by
  obtain ⟨pre, r₁, hlenPre, hokPre, hplays₁, ⟨hcells₁, hpresent₁, -⟩, -⟩ := exists_dump hvalid 32 (c := 0) rfl r
  obtain ⟨unlock, hokUnlock, htail, hplays₂⟩ := exists_cellRun hvalid .unlock 0 0 r₁
  obtain ⟨hcells₂, hto⟩ := afterOp_unlock_absent (hpresent₁.trans hpresent) 0 0
  have hidle : idleRun.ok = true := rfl
  refine ⟨⟨pre, unlock, List.replicate 7 idleRun, idleRun, List.replicate 32 idleRun⟩, _, ?_, ?_, hplays₁.append hplays₂,
    hcells₂.trans hcells₁⟩
  · simp [ProgramRun.ok, hlenPre, hokPre, hokUnlock, hidle]
  · rw [ProgramRun.timedOut, htail, timeout_tail_unlock, hto]

end RefDevice

/-! ## The course behind the reference device -/

/-- The course that a live device led by `es` is also the one behind a device that answers so. -/
theorem Course.behind {n : Nat} {s t : State} {d d' : Device} {es : List BusEvent}
    (hc : Course .programAddress n (startProgram (s.withDevice d)) t) (htrace : t.trace = s.trace ++ es)
    (h : s.device.replays s.params es d') : Course .programAddress n (startProgram s) (t.withDevice d') := by
  obtain ⟨es', htrace', hcourse⟩ := hc.mirrored
  have hsame : es' = es := by
    have hstart : (startProgram (s.withDevice d)).trace = s.trace := by simp [startProgram, State.withDevice]
    rw [htrace, hstart] at htrace'
    exact (List.append_cancel_left htrace').symm
  have hparams : (startProgram (s.withDevice d)).params = s.params := by simp [startProgram, State.withDevice]
  have hdevice : (startProgram (s.withDevice d)).withDevice s.device = startProgram s := rfl
  rw [hsame, hparams] at hcourse
  rw [← hdevice]
  exact hcourse _ _ h

/-- The reference device as the device behind the port. -/
theorem device_of_ref {d : Device} {r : RefDevice} (h : d.ref = some r) : { d with ref := some r } = d := by
  rw [← h]

/-! ## The statements -/

/-- Settles O55: the course against a live device that answers as the reference device does is the course behind it. -/
theorem referenceDeviceIsProgrammed : Obligations.ReferenceDeviceIsProgrammed := by
  unfold Obligations.ReferenceDeviceIsProgrammed
  intro s r hready hhalted hinputs hvalid href hpresent
  obtain ⟨run, r', hok, hto, hplays, hwe, hpre, hpost, hcells⟩ := RefDevice.exists_program hvalid r hpresent s.argMac
  have hreplays := hplays s.device
  rw [device_of_ref href] at hreplays
  obtain ⟨v, hcourse, hv, -, hpreImg, hpostImg, -⟩ :=
    course_program (s := s.withDevice (liveDevice (run.answers ++ []) 0)) hhalted hok hto rfl
  have hbehind := hcourse.behind (es := run.events s.params s.argMac) (by rw [State.finishOk_trace]; exact hv.trace) hreplays
  have hpreImg' : v.preImg = r.cells := Vector.toList_inj.mp (hpreImg.trans hpre)
  have hpostImg' : v.postImg = r'.cells := Vector.toList_inj.mp (hpostImg.trans hpost)
  refine ⟨_, _, _, r', exec_programAddress_accept hready, hbehind.run rfl (s.begun_inputs .programAddress hinputs),
    State.isOk_finishOk (s := v) 0 hv.running.2.1, rfl, hwe, ?_, fun j => ?_, fun i hi => ?_, ?_, ?_⟩
  · rw [hcells 0 (by decide)]
    rfl
  · have hbyte := hcells (j.val + 1) (by omega)
    simpa [programBytes] using hbyte
  · have hkept : r'.cells[i.val] = r.cells[i.val] := by
      have hbeyond : (programBytes s.argMac)[i.val]? = none := by simpa [programBytes] using hi
      rw [hcells i.val i.isLt, hbeyond, Option.getD_none]
    refine ⟨hkept, ?_⟩
    simpa [State.withDevice, hpreImg', hpostImg'] using hkept
  · simpa [State.withDevice] using hpreImg'
  · simpa [State.withDevice] using hpostImg'

/-- Settles O56: likewise, with the course that ends in the fatal check. -/
theorem referenceDeviceWithoutEepromHalts : Obligations.ReferenceDeviceWithoutEepromHalts := by
  unfold Obligations.ReferenceDeviceWithoutEepromHalts
  intro s r hready hhalted hinputs hvalid href hpresent
  obtain ⟨run, r', hok, hto, hplays, hcells⟩ := RefDevice.exists_fatal hvalid r hpresent
  have hreplays := hplays s.device
  rw [device_of_ref href] at hreplays
  obtain ⟨u, hcourse, hu, -, hpost⟩ :=
    course_toCheck (s := s.withDevice (liveDevice (run.answersToUnlock ++ []) 0)) hhalted hok rfl
  rw [afterCheck, ProgramRun.timeoutBit_eq, hto, if_pos rfl] at hcourse
  have hbehind := hcourse.behind (es := run.eventsToUnlock s.params) (by simp only [State.finish_trace, State.setRes_trace]; exact hu.trace) hreplays
  refine ⟨_, _, _, r', exec_programAddress_accept hready, hbehind.run rfl (s.begun_inputs .programAddress hinputs),
    State.isHalted_fatal run.unlock.tail.value u, rfl, hcells, hpost, ?_⟩
  exact (ProgramRun.timeoutBit_eq run).trans hto

end Sys2Proof.Machine
